-- ==== Sys2Proof/Word.lean ====
section
/-! DEFINITION. The value types of BW-CORE: bytes, the checksum word, Bytewords, the two internal
tables and the presentation styles (spec/00_scope.md R7, R9, R10, R11; spec/10_state.md R20). -/

namespace Sys2Proof

/-- An 8-bit value: a payload byte, a register value or a character code (R9, R11). -/
abbrev Byte := BitVec 8

/-- The 32-bit value of the checksum and of its accumulator (R7 `CRCW`, R32). -/
abbrev Word32 := BitVec 32

/-- One entry of WORDLIST: four character codes in reading order (R7 `WORDLEN`, R28, R52). -/
structure Byteword where
  c0 : Byte
  c1 : Byte
  c2 : Byte
  c3 : Byte
  deriving DecidableEq, Repr

/-- The four characters of a Byteword, first letter at the lowest index (R52). -/
def Byteword.chars (w : Byteword) : List Byte := [w.c0, w.c1, w.c2, w.c3]

/-- The edge letters of a Byteword: its first and last character (R16, R104). -/
def Byteword.edges (w : Byteword) : Byte × Byte := (w.c0, w.c3)

/-- WORDLIST: 256 entries of four characters (R7 `NWORDS`, R28). -/
abbrev Wordlist := Vector Byteword 256

/-- REVIDX: 676 cells, each ABSENT (`none`) or a byte value (R7, R30). ABSENT is a value apart from
every byte (spec/91_not_in_source.md N6). -/
abbrev RevIdx := Vector (Option Byte) 676

/-- The three presentation styles (R3, R200). -/
inductive Style where
  | standard
  | uri
  | minimal
  deriving DecidableEq, Repr

end Sys2Proof
end

