-- ==== Sys2Proof/Syntax.lean ====
section
/-! DEFINITION. The seven commands of BW-CORE, one constructor per row of spec/opcode_table.json
(spec/30_encoding.md R70, R71). -/

namespace Sys2Proof

/-- One legal value of CMD. Every command carries its 2-bit STYLE field `CMD[5:4]` as it stands: the
first four commands ignore it (R72), the last three decode it (R201), and all four values of it are
legal for each of the seven (R73, R78). The other operand of a command is the buffer IN (R76). -/
inductive Instr where
  /-- `CRC32`: the checksum of IN (R142). -/
  | crc32 (style : BitVec 2)
  /-- `APPEND_CHECKSUM`: IN followed by its checksum (R143). -/
  | appendChecksum (style : BitVec 2)
  /-- `WORD_AT`: the word for one byte (R105). -/
  | wordAt (style : BitVec 2)
  /-- `MINIMAL_WORD_AT`: the minimal code for one byte (R106). -/
  | minimalWordAt (style : BitVec 2)
  /-- `ENCODE.style`: a payload as text (R160). -/
  | encode (style : BitVec 2)
  /-- `DECODE_WORD.style`: one token as a byte (R186). -/
  | decodeWord (style : BitVec 2)
  /-- `DECODE.style`: a text as a payload (R190). -/
  | decode (style : BitVec 2)
  deriving DecidableEq, Repr

/-- The STYLE field of a command (R70). -/
def Instr.style : Instr → BitVec 2
  | .crc32 st | .appendChecksum st | .wordAt st | .minimalWordAt st
  | .encode st | .decodeWord st | .decode st => st

end Sys2Proof
end

