-- ==== Sys2Proof/WellFormed.lean ====
section
/-! DEFINITION. Well-formedness of a command and of an instantiation of WORDLIST
(spec/30_encoding.md R73, R75; spec/40_wordlist.md R100, R102; spec/70_reset_and_hazards.md R254). -/

namespace Sys2Proof

/-- Every term of `Instr` is a legal command: its only field has the width of STYLE, and all four
values of STYLE are legal for every operation (R72, R73). A command has nothing else to check; the
checks of this file that can fail are those of WORDLIST. -/
def Instr.wf : Instr → Bool
  | .crc32 _ | .appendChecksum _ | .wordAt _ | .minimalWordAt _ => true
  | .encode _ | .decodeWord _ | .decode _ => true

/-- A lowercase letter: the codes 0x61 to 0x7A (R9). -/
def isLowerLetter (c : Byte) : Bool := decide (0x61 ≤ c.toNat ∧ c.toNat ≤ 0x7A)

/-- A raw entry read as a Byteword: `none` unless it has exactly 4 characters (R100 (b)). -/
def parseEntry : List Byte → Option Byteword
  | [a, b, c, d] => some ⟨a, b, c, d⟩
  | _ => none

/-- The raw entries of an instantiation read as a WORDLIST: `none` unless there are exactly 256
entries (R100 (a)), each of exactly 4 characters (R100 (b)). -/
def parseWordlist (entries : List (List Byte)) : Option Wordlist :=
  let words := entries.filterMap parseEntry
  if h : entries.length = 256 ∧ words.length = 256 then
    some ⟨words.toArray, by simpa using h.2⟩
  else none

/-- R100 (b): every character of every entry is a lowercase letter. -/
def Wordlist.lowercase (wl : Wordlist) : Bool :=
  wl.toList.all fun w => w.chars.all isLowerLetter

/-- R100 (c): the entries are distinct. -/
def Wordlist.distinctWords (wl : Wordlist) : Bool := decide wl.toList.Nodup

/-- R100 (d): the pairs (first letter, last letter) are distinct. -/
def Wordlist.distinctEdges (wl : Wordlist) : Bool := decide (wl.toList.map Byteword.edges).Nodup

/-- R100 (b), (c) and (d); (a) is the type. -/
def Wordlist.wf (wl : Wordlist) : Bool :=
  wl.lowercase && wl.distinctWords && wl.distinctEdges

/-- R102: the five entries that any instantiation must agree on. -/
def Wordlist.agreesWithSource (wl : Wordlist) : Bool :=
  decide (wl[0x00].chars = [0x61, 0x62, 0x6C, 0x65]) &&
  decide (wl[0xD2].chars = [0x74, 0x69, 0x65, 0x64]) &&
  decide (wl[0x02].chars = [0x61, 0x6C, 0x73, 0x6F]) &&
  decide (wl[0xEF].chars = [0x77, 0x65, 0x62, 0x73]) &&
  decide (wl[0x8D].chars = [0x6C, 0x75, 0x6E, 0x67])

end Sys2Proof
end

