-- ==== Sys2Proof/Decode.lean ====
section
/-! DEFINITION. The command decoder, total on any bytes and refusing by name, and the encoder after it
(spec/30_encoding.md R70, R71, R73, R74, R78). -/

namespace Sys2Proof

/-- Why a byte sequence is no command. -/
inductive DecodeError where
  /-- There is no byte to decode. -/
  | noByte
  /-- `RSV`, bits [7:6], is not 00 (R73). -/
  | reservedBits
  /-- `OP`, bits [3:0], is 0x0 or 0x8 to 0xF (R73). -/
  | unassignedOp
  deriving DecidableEq, Repr

/-- `OP = CMD[3:0]` (R70). -/
def opField (c : Byte) : BitVec 4 := c.extractLsb' 0 4

/-- `STYLE = CMD[5:4]` (R70). -/
def styleField (c : Byte) : BitVec 2 := c.extractLsb' 4 2

/-- `RSV = CMD[7:6]` (R70). -/
def rsvField (c : Byte) : BitVec 2 := c.extractLsb' 6 2

/-- The opcode map of R71; `none` is a reserved OP. -/
def opMap (op : BitVec 4) (st : BitVec 2) : Option Instr :=
  match op.toNat with
  | 1 => some (.crc32 st)
  | 2 => some (.appendChecksum st)
  | 3 => some (.wordAt st)
  | 4 => some (.minimalWordAt st)
  | 5 => some (.encode st)
  | 6 => some (.decodeWord st)
  | 7 => some (.decode st)
  | _ => none

/-- `decodeCmd` of R74: RSV is checked first, then OP. -/
def decodeCmd (c : Byte) : Except DecodeError Instr :=
  if rsvField c ≠ 0 then .error .reservedBits
  else
    match opMap (opField c) (styleField c) with
    | some i => .ok i
    | none => .error .unassignedOp

/-- The decoder on any bytes: a command is one byte, with no prefix and no extension (R70, R77). -/
def decode : List Byte → Except DecodeError (Instr × List Byte)
  | [] => .error .noByte
  | c :: rest =>
    match decodeCmd c with
    | .ok i => .ok (i, rest)
    | .error e => .error e

/-- The OP value of a command (R71). -/
def opOf : Instr → BitVec 4
  | .crc32 _ => 0x1
  | .appendChecksum _ => 0x2
  | .wordAt _ => 0x3
  | .minimalWordAt _ => 0x4
  | .encode _ => 0x5
  | .decodeWord _ => 0x6
  | .decode _ => 0x7

/-- The CMD value of a command: RSV = 00, then STYLE, then OP (R70). -/
def encodeCmd (i : Instr) : Byte := (0#2 ++ i.style) ++ opOf i

/-- The words of a command: one byte (R77). -/
def encode (i : Instr) : List Byte := [encodeCmd i]

/-- The command the decoder reads from an instruction of `nbits` bits whose value is `w`. Every
command has 8 bits (R77); another length, or a value that does not fit in it, is no command. -/
def decodeTableWord (nbits w : Nat) : Option Instr :=
  if nbits = 8 ∧ w < 256 then
    match decode [BitVec.ofNat 8 w] with
    | .ok (i, []) => some i
    | _ => none
  else none

end Sys2Proof
end

