-- ==== Sys2Proof/Machine/Flags.lean ====
section
/-! DEFINITION. The error kinds and their status codes (spec/30_encoding.md R80, spec/60_exceptions.md
R220) and the layout of STATUS (spec/10_state.md R25). BW-CORE has no other flag (R23). -/

namespace Sys2Proof.Machine

/-- The errors a command can raise (R80, R220). -/
inductive ErrorKind where
  | invalidStyle
  | invalidWordLength
  | invalidWord
  | invalidMiddleLetters
  | invalidDecodedLength
  | checksumMismatch
  | illegalCommand
  | invalidOperandLength
  deriving DecidableEq, Repr

/-- `CODE` of success (R80). -/
def okCode : BitVec 4 := 0

/-- `CODE` of each error (R80). -/
def errorCode : ErrorKind → BitVec 4
  | .invalidStyle => 1
  | .invalidWordLength => 2
  | .invalidWord => 3
  | .invalidMiddleLetters => 4
  | .invalidDecodedLength => 5
  | .checksumMismatch => 6
  | .illegalCommand => 7
  | .invalidOperandLength => 8

/-- STATUS as a command writes it: `STATUS[3:0] = CODE`, and the reserved bits [7:4] are 0 (R25). -/
def statusWord (code : BitVec 4) : Byte := 0#4 ++ code

/-- STATUS as the host reads it: [7:4] read 0 whatever the register holds (R25, U11). -/
def statusRead (status : Byte) : Byte := statusWord (status.extractLsb' 0 4)

end Sys2Proof.Machine
end

