-- ==== Sys2Proof/Machine/Operands.lean ====
section
/-! DEFINITION. The operand forms: the style multiplexer (spec/45_style_multiplexer.md R200 to R203),
the character functions of a token (spec/44_decoder.md R182, R184) and the slices of a byte string
(spec/00_scope.md R11). -/

namespace Sys2Proof.Machine

/-- `styleDecode(STYLE)` of R201; `none` is NONE. -/
def styleDecode (style : BitVec 2) : Option Style :=
  match style.toNat with
  | 0 => some .standard
  | 1 => some .uri
  | 2 => some .minimal
  | _ => none

/-- `sep(st)` of R201: space, hyphen, or none. -/
def sep : Style → Option Byte
  | .standard => some 0x20
  | .uri => some 0x2D
  | .minimal => none

/-- `fullWords(st)` of R201. -/
def fullWords : Style → Bool
  | .standard | .uri => true
  | .minimal => false

/-- `tokenLen(st)` of R201, R203. -/
def tokenLen : Style → Nat
  | .standard | .uri => 4
  | .minimal => 2

/-- `middleCheck(st)` of R201: exactly for tokens of length 4. -/
def middleCheck (st : Style) : Bool := tokenLen st == 4

/-- `lower(c)` of R184: capitals are folded, and nothing else. -/
def lower (c : Byte) : Byte :=
  if 0x41 ≤ c.toNat ∧ c.toNat ≤ 0x5A then c + 0x20 else c

/-- `edge(c)` of R182 under the parameter CASE_FOLD_EDGES. -/
def edge (caseFoldEdges : Bool) (c : Byte) : Byte := if caseFoldEdges then lower c else c

/-- A coordinate `c - 0x61`, a signed integer (R10, R182). -/
def coord (c : Byte) : Int := (c.toNat : Int) - 0x61

/-- `s[a .. b]` of R11. -/
def slice (s : List Byte) (a b : Nat) : List Byte := (s.drop a).take (b - a)

/-- `t[k]` of R11, for an index inside t; the callers check the length first. -/
def charAt (t : List Byte) (k : Nat) : Byte := t.getD k 0

end Sys2Proof.Machine
end

