-- ==== Sys2Proof/Config.lean ====
section
/-! DEFINITION. The parameters of an instantiation (spec/00_scope.md R8) and the free values: opaque
constants, of which nothing can be proved. WORDLIST, R8's first parameter, stands in the machine's
state because R20 lists it there. -/

namespace Sys2Proof

/-- The two parameters of R8 on which a rule depends. They are fixed for a machine: no step writes
them. -/
structure Config where
  /-- `CASE_FOLD_EDGES`: whether edge letters are case-folded before the look-up (R182, D8). -/
  caseFoldEdges : Bool
  /-- `BUF_CAP`: the capacity of IN and of OUT in bytes; `none` is unbounded (D17). -/
  bufCap : Option Nat
  deriving DecidableEq, Repr

/-- The values the spec takes (R8): edges not folded, buffers unbounded. -/
def Config.spec : Config where
  caseFoldEdges := false
  bufCap := none

/-- The interface registers that a bus offset would name (R56). -/
inductive HostReg where
  | cmd
  | status
  | inLen
  | inBuf
  | outLen
  | outBuf
  deriving DecidableEq, Repr

/-- FREE VALUE. The byte the host gets where the spec states none: a read of OUT at an index at or
past OUT_LEN (R27, D32, U1), and each byte that IN gains when the host raises IN_LEN. The argument
counts the draws, so two draws are unrelated. -/
opaque Config.freeByte : Nat → Byte

/-- OPEN parameter `LATENCY`: the cycles of a command, by CMD and IN_LEN. No rule depends on it
(R8, R259, D27), so no definition of the model reads it. -/
opaque Config.latency : Byte → Nat → Nat

/-- OPEN parameter `HOST_MAP`: the bus offset of each interface register. A model at transaction
level does not need it (R8, R56, D28), so no definition of the model reads it. -/
opaque Config.hostMap : HostReg → Nat

end Sys2Proof
end

