-- ==== Sys2Proof/Machine/Wordlist.lean ====
section
/-! DEFINITION. The default contents of WORDLIST, transcribed row by row from spec/40_wordlist.md R101.
Five of the entries come from the source (R102); the spec marks the other 251 as general knowledge
(decision D21), so does assumption log entry 1. -/

namespace Sys2Proof.Machine

/-- The ASCII code of a character (R9, D7). -/
def ascii (c : Char) : Byte := BitVec.ofNat 8 c.toNat

/-- A Byteword from its letters in reading order (R52). -/
def byteword (a b c d : Char) : Byteword := ⟨ascii a, ascii b, ascii c, ascii d⟩

/-- Entries 0x00 to 0x1F of R101, four to a line. -/
def words00 : List Byteword := [
  byteword 'a' 'b' 'l' 'e', byteword 'a' 'c' 'i' 'd', byteword 'a' 'l' 's' 'o', byteword 'a' 'p' 'e' 'x',
  byteword 'a' 'q' 'u' 'a', byteword 'a' 'r' 'c' 'h', byteword 'a' 't' 'o' 'm', byteword 'a' 'u' 'n' 't',
  byteword 'a' 'w' 'a' 'y', byteword 'a' 'x' 'i' 's', byteword 'b' 'a' 'c' 'k', byteword 'b' 'a' 'l' 'd',
  byteword 'b' 'a' 'r' 'n', byteword 'b' 'e' 'l' 't', byteword 'b' 'e' 't' 'a', byteword 'b' 'i' 'a' 's',
  byteword 'b' 'l' 'u' 'e', byteword 'b' 'o' 'd' 'y', byteword 'b' 'r' 'a' 'g', byteword 'b' 'r' 'e' 'w',
  byteword 'b' 'u' 'l' 'b', byteword 'b' 'u' 'z' 'z', byteword 'c' 'a' 'l' 'm', byteword 'c' 'a' 's' 'h',
  byteword 'c' 'a' 't' 's', byteword 'c' 'h' 'e' 'f', byteword 'c' 'i' 't' 'y', byteword 'c' 'l' 'a' 'w',
  byteword 'c' 'o' 'd' 'e', byteword 'c' 'o' 'l' 'a', byteword 'c' 'o' 'o' 'k', byteword 'c' 'o' 's' 't']

/-- Entries 0x20 to 0x3F of R101, four to a line. -/
def words20 : List Byteword := [
  byteword 'c' 'r' 'u' 'x', byteword 'c' 'u' 'r' 'l', byteword 'c' 'u' 's' 'p', byteword 'c' 'y' 'a' 'n',
  byteword 'd' 'a' 'r' 'k', byteword 'd' 'a' 't' 'a', byteword 'd' 'a' 'y' 's', byteword 'd' 'e' 'l' 'i',
  byteword 'd' 'i' 'c' 'e', byteword 'd' 'i' 'e' 't', byteword 'd' 'o' 'o' 'r', byteword 'd' 'o' 'w' 'n',
  byteword 'd' 'r' 'a' 'w', byteword 'd' 'r' 'o' 'p', byteword 'd' 'r' 'u' 'm', byteword 'd' 'u' 'l' 'l',
  byteword 'd' 'u' 't' 'y', byteword 'e' 'a' 'c' 'h', byteword 'e' 'a' 's' 'y', byteword 'e' 'c' 'h' 'o',
  byteword 'e' 'd' 'g' 'e', byteword 'e' 'p' 'i' 'c', byteword 'e' 'v' 'e' 'n', byteword 'e' 'x' 'a' 'm',
  byteword 'e' 'x' 'i' 't', byteword 'e' 'y' 'e' 's', byteword 'f' 'a' 'c' 't', byteword 'f' 'a' 'i' 'r',
  byteword 'f' 'e' 'r' 'n', byteword 'f' 'i' 'g' 's', byteword 'f' 'i' 'l' 'm', byteword 'f' 'i' 's' 'h']

/-- Entries 0x40 to 0x5F of R101, four to a line. -/
def words40 : List Byteword := [
  byteword 'f' 'i' 'z' 'z', byteword 'f' 'l' 'a' 'p', byteword 'f' 'l' 'e' 'w', byteword 'f' 'l' 'u' 'x',
  byteword 'f' 'o' 'x' 'y', byteword 'f' 'r' 'e' 'e', byteword 'f' 'r' 'o' 'g', byteword 'f' 'u' 'e' 'l',
  byteword 'f' 'u' 'n' 'd', byteword 'g' 'a' 'l' 'a', byteword 'g' 'a' 'm' 'e', byteword 'g' 'e' 'a' 'r',
  byteword 'g' 'e' 'm' 's', byteword 'g' 'i' 'f' 't', byteword 'g' 'i' 'r' 'l', byteword 'g' 'l' 'o' 'w',
  byteword 'g' 'o' 'o' 'd', byteword 'g' 'r' 'a' 'y', byteword 'g' 'r' 'i' 'm', byteword 'g' 'u' 'r' 'u',
  byteword 'g' 'u' 's' 'h', byteword 'g' 'y' 'r' 'o', byteword 'h' 'a' 'l' 'f', byteword 'h' 'a' 'n' 'g',
  byteword 'h' 'a' 'r' 'd', byteword 'h' 'a' 'w' 'k', byteword 'h' 'e' 'a' 't', byteword 'h' 'e' 'l' 'p',
  byteword 'h' 'i' 'g' 'h', byteword 'h' 'i' 'l' 'l', byteword 'h' 'o' 'l' 'y', byteword 'h' 'o' 'p' 'e']

/-- Entries 0x60 to 0x7F of R101, four to a line. -/
def words60 : List Byteword := [
  byteword 'h' 'o' 'r' 'n', byteword 'h' 'u' 't' 's', byteword 'i' 'c' 'e' 'd', byteword 'i' 'd' 'e' 'a',
  byteword 'i' 'd' 'l' 'e', byteword 'i' 'n' 'c' 'h', byteword 'i' 'n' 'k' 'y', byteword 'i' 'n' 't' 'o',
  byteword 'i' 'r' 'i' 's', byteword 'i' 'r' 'o' 'n', byteword 'i' 't' 'e' 'm', byteword 'j' 'a' 'd' 'e',
  byteword 'j' 'a' 'z' 'z', byteword 'j' 'o' 'i' 'n', byteword 'j' 'o' 'l' 't', byteword 'j' 'o' 'w' 'l',
  byteword 'j' 'u' 'd' 'o', byteword 'j' 'u' 'g' 's', byteword 'j' 'u' 'm' 'p', byteword 'j' 'u' 'n' 'k',
  byteword 'j' 'u' 'r' 'y', byteword 'k' 'e' 'e' 'p', byteword 'k' 'e' 'n' 'o', byteword 'k' 'e' 'p' 't',
  byteword 'k' 'e' 'y' 's', byteword 'k' 'i' 'c' 'k', byteword 'k' 'i' 'l' 'n', byteword 'k' 'i' 'n' 'g',
  byteword 'k' 'i' 't' 'e', byteword 'k' 'i' 'w' 'i', byteword 'k' 'n' 'o' 'b', byteword 'l' 'a' 'm' 'b']

/-- Entries 0x80 to 0x9F of R101, four to a line. -/
def words80 : List Byteword := [
  byteword 'l' 'a' 'v' 'a', byteword 'l' 'a' 'z' 'y', byteword 'l' 'e' 'a' 'f', byteword 'l' 'e' 'g' 's',
  byteword 'l' 'i' 'a' 'r', byteword 'l' 'i' 'm' 'p', byteword 'l' 'i' 'o' 'n', byteword 'l' 'i' 's' 't',
  byteword 'l' 'o' 'g' 'o', byteword 'l' 'o' 'u' 'd', byteword 'l' 'o' 'v' 'e', byteword 'l' 'u' 'a' 'u',
  byteword 'l' 'u' 'c' 'k', byteword 'l' 'u' 'n' 'g', byteword 'm' 'a' 'i' 'n', byteword 'm' 'a' 'n' 'y',
  byteword 'm' 'a' 't' 'h', byteword 'm' 'a' 'z' 'e', byteword 'm' 'e' 'm' 'o', byteword 'm' 'e' 'n' 'u',
  byteword 'm' 'e' 'o' 'w', byteword 'm' 'i' 'l' 'd', byteword 'm' 'i' 'n' 't', byteword 'm' 'i' 's' 's',
  byteword 'm' 'o' 'n' 'k', byteword 'n' 'a' 'i' 'l', byteword 'n' 'a' 'v' 'y', byteword 'n' 'e' 'e' 'd',
  byteword 'n' 'e' 'w' 's', byteword 'n' 'e' 'x' 't', byteword 'n' 'o' 'o' 'n', byteword 'n' 'o' 't' 'e']

/-- Entries 0xA0 to 0xBF of R101, four to a line. -/
def wordsA0 : List Byteword := [
  byteword 'n' 'u' 'm' 'b', byteword 'o' 'b' 'e' 'y', byteword 'o' 'b' 'o' 'e', byteword 'o' 'm' 'i' 't',
  byteword 'o' 'n' 'y' 'x', byteword 'o' 'p' 'e' 'n', byteword 'o' 'v' 'a' 'l', byteword 'o' 'w' 'l' 's',
  byteword 'p' 'a' 'i' 'd', byteword 'p' 'a' 'r' 't', byteword 'p' 'e' 'c' 'k', byteword 'p' 'l' 'a' 'y',
  byteword 'p' 'l' 'u' 's', byteword 'p' 'o' 'e' 'm', byteword 'p' 'o' 'o' 'l', byteword 'p' 'o' 's' 'e',
  byteword 'p' 'u' 'f' 'f', byteword 'p' 'u' 'm' 'a', byteword 'p' 'u' 'r' 'r', byteword 'q' 'u' 'a' 'd',
  byteword 'q' 'u' 'i' 'z', byteword 'r' 'a' 'c' 'e', byteword 'r' 'a' 'm' 'p', byteword 'r' 'e' 'a' 'l',
  byteword 'r' 'e' 'd' 'o', byteword 'r' 'i' 'c' 'h', byteword 'r' 'o' 'a' 'd', byteword 'r' 'o' 'c' 'k',
  byteword 'r' 'o' 'o' 'f', byteword 'r' 'u' 'b' 'y', byteword 'r' 'u' 'i' 'n', byteword 'r' 'u' 'n' 's']

/-- Entries 0xC0 to 0xDF of R101, four to a line. -/
def wordsC0 : List Byteword := [
  byteword 'r' 'u' 's' 't', byteword 's' 'a' 'f' 'e', byteword 's' 'a' 'g' 'a', byteword 's' 'c' 'a' 'r',
  byteword 's' 'e' 't' 's', byteword 's' 'i' 'l' 'k', byteword 's' 'k' 'e' 'w', byteword 's' 'l' 'o' 't',
  byteword 's' 'o' 'a' 'p', byteword 's' 'o' 'l' 'o', byteword 's' 'o' 'n' 'g', byteword 's' 't' 'u' 'b',
  byteword 's' 'u' 'r' 'f', byteword 's' 'w' 'a' 'n', byteword 't' 'a' 'c' 'o', byteword 't' 'a' 's' 'k',
  byteword 't' 'a' 'x' 'i', byteword 't' 'e' 'n' 't', byteword 't' 'i' 'e' 'd', byteword 't' 'i' 'm' 'e',
  byteword 't' 'i' 'n' 'y', byteword 't' 'o' 'i' 'l', byteword 't' 'o' 'm' 'b', byteword 't' 'o' 'y' 's',
  byteword 't' 'r' 'i' 'p', byteword 't' 'u' 'n' 'a', byteword 't' 'w' 'i' 'n', byteword 'u' 'g' 'l' 'y',
  byteword 'u' 'n' 'd' 'o', byteword 'u' 'n' 'i' 't', byteword 'u' 'r' 'g' 'e', byteword 'u' 's' 'e' 'r']

/-- Entries 0xE0 to 0xFF of R101, four to a line. -/
def wordsE0 : List Byteword := [
  byteword 'v' 'a' 's' 't', byteword 'v' 'e' 'r' 'y', byteword 'v' 'e' 't' 'o', byteword 'v' 'i' 'a' 'l',
  byteword 'v' 'i' 'b' 'e', byteword 'v' 'i' 'e' 'w', byteword 'v' 'i' 's' 'a', byteword 'v' 'o' 'i' 'd',
  byteword 'v' 'o' 'w' 's', byteword 'w' 'a' 'l' 'l', byteword 'w' 'a' 'n' 'd', byteword 'w' 'a' 'r' 'm',
  byteword 'w' 'a' 's' 'p', byteword 'w' 'a' 'v' 'e', byteword 'w' 'a' 'x' 'y', byteword 'w' 'e' 'b' 's',
  byteword 'w' 'h' 'a' 't', byteword 'w' 'h' 'e' 'n', byteword 'w' 'h' 'i' 'z', byteword 'w' 'o' 'l' 'f',
  byteword 'w' 'o' 'r' 'k', byteword 'y' 'a' 'n' 'k', byteword 'y' 'a' 'w' 'n', byteword 'y' 'e' 'l' 'l',
  byteword 'y' 'o' 'g' 'a', byteword 'y' 'u' 'r' 't', byteword 'z' 'a' 'p' 's', byteword 'z' 'e' 'r' 'o',
  byteword 'z' 'e' 's' 't', byteword 'z' 'i' 'n' 'c', byteword 'z' 'o' 'n' 'e', byteword 'z' 'o' 'o' 'm']

/-- The table of R101 in index order. -/
def wordTable : List Byteword :=
  words00 ++ (words20 ++ (words40 ++ (words60 ++ (words80 ++ (wordsA0 ++ (wordsC0 ++ wordsE0))))))

/-- The default WORDLIST (R101, D21). -/
def defaultWordlist : Wordlist := ⟨wordTable.toArray, by decide +kernel⟩

end Sys2Proof.Machine
end

