-- ==== Sys2Proof/Machine/State.lean ====
section
/-! DEFINITION. The state of BW-CORE (spec/10_state.md R20 to R34), the host's transactions, the reasons
a step can stop, and the machine right after reset. -/

namespace Sys2Proof.Machine

/-- What stops the machine with a fault. -/
inductive Fault where
  /-- Raised by a host read or byte write of IN at an index at or past IN_LEN: R50 gives IN the
  addresses 0 to IN_LEN-1 and no other, and the spec gives such an access no effect. Safe: the
  model stops where hardware might go on. No command raises it. -/
  | inIndexOutOfRange
  deriving DecidableEq, Repr

/-- What the model refuses. -/
inductive Refusal where
  /-- Raised by `exec` for an instruction that has no meaning yet. Safe. -/
  | notModelled (mnemonic : String)
  /-- Raised by a command whose result is longer than BUF_CAP (R146, U8). Safe: the spec asks for
  this refusal. It cannot happen with the default, unbounded BUF_CAP. -/
  | resultExceedsCapacity
  /-- Raised by a host write that would make IN longer than BUF_CAP (R26: IN_LEN is at most
  BUF_CAP). Safe. It cannot happen with the default, unbounded BUF_CAP. -/
  | inputExceedsCapacity
  /-- Raised by the instantiation of a WORDLIST that breaks R100 (a) to (d). Safe: the spec asks
  for this refusal. No step raises it. -/
  | illFormedWordlist
  /-- Raised by the instantiation of a WORDLIST that disagrees with one of the five entries of
  R102. Safe. No step raises it. -/
  | wordlistDisagreesWithSource
  deriving DecidableEq, Repr

/-- A byte buffer: the bytes at the addresses 0, 1, … of IN or of OUT (R11, R50). -/
abbrev Memory := List Byte

/-- A buffer as (address, byte) pairs. -/
def Memory.cells (m : Memory) : List Host.Cell := m.zipIdx.map fun p => (p.2, p.1)

/-- A buffer of `n` bytes fits a capacity; `none` is unbounded (R8 `BUF_CAP`, D17). -/
def fits (cap : Option Nat) (n : Nat) : Bool :=
  match cap with
  | none => true
  | some c => decide (n ≤ c)

/-- The one canonical form of a buffer: its addresses rise strictly and it is within the capacity. -/
def Memory.wf (cap : Option Nat) (m : Memory) : Bool :=
  decide ((m.cells.map Prod.fst).Pairwise (· < ·)) && fits cap m.length

/-- What a host reads (R33): the registers, the two lengths, one byte of a buffer (R53). -/
inductive HostRead where
  | cmd
  | status
  | inLen
  | inByte (k : Nat)
  | outLen
  | outByte (k : Nat)
  deriving DecidableEq, Repr

/-- What a host read answers: a byte, or a length. A length is one natural number, of no fixed width, in
one transaction: DESIGN CHOICE (log entry 22). -/
inductive HostValue where
  | byte (b : Byte)
  | length (n : Nat)
  deriving DecidableEq, Repr

/-- One transaction of the host at the interface (R33, R55, R250). -/
inductive HostOp where
  /-- IN ← s, and so IN_LEN ← len(s) (R55 step 1). -/
  | writeIn (s : List Byte)
  /-- IN[k] ← b: one byte of IN (R33, R53). -/
  | writeInByte (k : Nat) (b : Byte)
  /-- IN_LEN ← n (R33, R56), the whole number in one transaction: DESIGN CHOICE (log entry 22). -/
  | writeInLen (n : Nat)
  /-- CMD ← c, which issues a command (R24, R55 step 2). -/
  | writeCmd (c : Byte)
  /-- A write to STATUS, which is ignored (R25). -/
  | writeStatus (b : Byte)
  /-- A read (R33, R54). -/
  | read (r : HostRead)
  /-- Reset, which acts between commands only (R250, R251). -/
  | reset
  deriving DecidableEq, Repr

/-- The state of BW-CORE: the seven pieces of R20, then four fields of the model's own. -/
structure State where
  /-- `CMD`, 8 bits (R24). -/
  cmd : Byte
  /-- `STATUS`, 8 bits: CODE in [3:0], [7:4] hardwired to 0 (R25). -/
  status : Byte
  /-- `IN`; IN_LEN is its length (R26). -/
  inBuf : Memory
  /-- `OUT`; OUT_LEN is its length (R27). -/
  out : Memory
  /-- `WORDLIST`, the read-only ROM (R28). -/
  wordlist : Wordlist
  /-- `REVIDX`, the derived cache (R30). -/
  revidx : RevIdx
  /-- `BUILT`, 1 bit: REVIDX holds the table (R29). -/
  built : Bool
  /-- MODEL'S OWN: the parameters of this instantiation (R8). -/
  cfg : Config
  /-- MODEL'S OWN: the host's transactions still to come, in issue order (R58, R260). -/
  host : List HostOp
  /-- MODEL'S OWN: what the host's last read answered; `none` before the first read. -/
  reply : Option HostValue
  /-- MODEL'S OWN: how many free bytes have been drawn (`Config.freeByte`). -/
  draws : Nat
  deriving DecidableEq, Repr

/-- REVIDX after reset. R34 leaves it unspecified and no rule reads it while BUILT = 0; the model
takes every cell ABSENT. DESIGN CHOICE (log entry 4), unsafe. -/
def revidxAtReset : RevIdx := Vector.replicate 676 none

/-- The machine right after reset (R34, R250), with the default WORDLIST and the parameters of R8,
before the host has issued anything. -/
def State.reset : State where
  cmd := 0x00
  status := 0x00
  inBuf := []
  out := []
  wordlist := defaultWordlist
  revidx := revidxAtReset
  built := false
  cfg := Config.spec
  host := []
  reply := none
  draws := 0

end Sys2Proof.Machine
end

