-- ==== Sys2Proof/Machine/Ops.lean ====
section
/-! DEFINITION. The named operations of a command over the state: the ROM look-ups (spec/40_wordlist.md
R103, R104), raising an error (spec/60_exceptions.md R222), completing with a result (spec/10_state.md
R25, R27; spec/42_checksum.md R146) and the reset of the block (spec/70_reset_and_hazards.md R250). -/

namespace Sys2Proof.Machine

/-- The entry `W(i)` of R103. An 8-bit index is always in range. -/
def wordAt (wl : Wordlist) (i : Byte) : Byteword := wl[i.toNat]'i.isLt

/-- `M(i)` of R104: the first and the last letter of `W(i)`. -/
def minimalWordAt (wl : Wordlist) (i : Byte) : List Byte := [(wordAt wl i).c0, (wordAt wl i).c3]

/-- `raise E`, the one way a command fails (R222): OUT is emptied, STATUS.CODE takes the error's code,
nothing is saved, no mode changes and control goes nowhere. There is no return from it (R223): the
block is ready for the next command. -/
def raiseError (e : ErrorKind) (s : State) : State :=
  { s with out := [], status := statusWord (errorCode e) }

/-- OUT ← result and STATUS.CODE ← OK, in one step (R12, R27, R55 step 5). -/
def finishOk (result : List Byte) (s : State) : State :=
  { s with out := result, status := statusWord okCode }

/-- Success of a command: the result goes to OUT, or the command is refused if the result is longer
than BUF_CAP, with no status code (R146). -/
def complete (result : List Byte) (s : State) : Host.Outcome State Fault Refusal :=
  if fits s.cfg.bufCap result.length then .next (finishOk result s)
  else .refused .resultExceedsCapacity

/-- The end of a command that may fail: exactly one of `OK(out)` and `ERR(kind)` (R14, R225). -/
def finish (r : Except ErrorKind (List Byte)) (s : State) : Host.Outcome State Fault Refusal :=
  match r with
  | .ok result => complete result s
  | .error e => .next (raiseError e s)

/-- Reset of the block (R250): the values of R34. WORDLIST is unchanged; what stands outside the block
(its parameters, the host's transactions, what the host has read) is not touched. REVIDX takes the
value of log entry 4. -/
def resetBlock (s : State) : State :=
  { s with
    cmd := 0x00, status := 0x00, inBuf := [], out := [], built := false, revidx := revidxAtReset }

/-- An instantiation of the machine by the parameters of R8: the state after reset with the given
WORDLIST and parameters. An ill-formed WORDLIST is refused and never repaired (R100, R254), and so is
one that disagrees with the five entries of R102. -/
def instantiate (cfg : Config) (entries : List (List Byte)) : Host.Outcome State Fault Refusal :=
  match parseWordlist entries with
  | none => .refused .illFormedWordlist
  | some wl =>
    if wl.wf then
      if wl.agreesWithSource then .next { State.reset with wordlist := wl, cfg := cfg }
      else .refused .wordlistDisagreesWithSource
    else .refused .illFormedWordlist

end Sys2Proof.Machine
end

