-- ==== Sys2Proof/Machine/Checksum.lean ====
section
/-! DEFINITION. The CRC-32 IEEE generator and its two commands, CRC32 and APPEND_CHECKSUM
(spec/42_checksum.md R140 to R146). The constants are general knowledge (R140, G1; log entry 2). -/

namespace Sys2Proof.Machine

/-- The reflected IEEE 802.3 generator polynomial (R140). -/
def crcPoly : Word32 := 0xEDB88320

/-- One turn of the inner loop of R140. -/
def crcBit (acc : Word32) : Word32 :=
  if acc.getLsbD 0 then (acc >>> 1) ^^^ crcPoly else acc >>> 1

/-- One byte of R140: it enters at bit 0 and is consumed in 8 turns. -/
def crcByte (acc : Word32) (b : Byte) : Word32 :=
  Nat.iterate crcBit 8 (acc ^^^ b.zeroExtend 32)

/-- `crc32(s)` of R140: initial value and final XOR 0xFFFFFFFF, bytes in index order. -/
def crc32 (s : List Byte) : Word32 := s.foldl crcByte 0xFFFFFFFF ^^^ 0xFFFFFFFF

/-- The four bytes of a 32-bit value, most significant byte first (R51, R141). -/
def bigEndian (c : Word32) : List Byte :=
  [c.extractLsb' 24 8, c.extractLsb' 16 8, c.extractLsb' 8 8, c.extractLsb' 0 8]

/-- `crcBytes(s)` of R141. -/
def crcBytes (s : List Byte) : List Byte := bigEndian (crc32 s)

/-- `appendChecksum`: a payload followed by its checksum (R143, R160). -/
def appendChecksum (payload : List Byte) : List Byte := payload ++ crcBytes payload

/-- CRC32 (R142). STYLE is ignored. -/
def execCrc32 (_style : BitVec 2) (s : State) : Host.Outcome State Fault Refusal :=
  complete (crcBytes s.inBuf) s

/-- APPEND_CHECKSUM (R143). STYLE is ignored. -/
def execAppendChecksum (_style : BitVec 2) (s : State) : Host.Outcome State Fault Refusal :=
  complete (appendChecksum s.inBuf) s

end Sys2Proof.Machine
end

