-- ==== Sys2Proof/Machine/ReverseIndex.lean ====
section
/-! DEFINITION. The reverse-index mapper: the derived table, its build and its look-up
(spec/41_reverse_index.md R120 to R125). It has no command of its own. -/

namespace Sys2Proof.Machine

/-- The cell index `y*26 + x` of R50 and R120. -/
def cellIndex (x y : Int) : Int := y * 26 + x

/-- The cell of a word: x from its first letter, y from its last (R120, R121). -/
def wordCell (w : Byteword) : Int := cellIndex (coord w.c0) (coord w.c3)

/-- `REVTABLE(c)` of R121: the index whose word has the cell `c`, or ABSENT. -/
def revCell (wl : Wordlist) (c : Nat) : Option Byte :=
  (wl.toList.findIdx? fun w => wordCell w == (c : Int)).map (BitVec.ofNat 8)

/-- The derived table of R121, all 676 cells of it. Irreducible, so that no elaborator unfolds the
whole table by accident; the kernel computes it, and simp rewrites by its equation. -/
@[irreducible] def revTable (wl : Wordlist) : RevIdx :=
  ⟨((List.range 676).map (revCell wl)).toArray, by simp⟩

/-- One assignment of the build loop of R121: `REVIDX[y*26 + x] <- i`. -/
def buildStep (wl : Wordlist) (table : RevIdx) (i : Nat) : RevIdx :=
  table.setIfInBounds (wordCell (wordAt wl (BitVec.ofNat 8 i))).toNat (some (BitVec.ofNat 8 i))

/-- The build loop of R121: every cell ABSENT, then one assignment for each index in order. The
machine's build stores `revTable`, the table that R121 defines, in one step (R63, U5). -/
def buildLoop (wl : Wordlist) : RevIdx :=
  (List.range 256).foldl (buildStep wl) (Vector.replicate 676 none)

/-- `if BUILT = 0: buildRevidx()` of R122. BUILT and the whole table change together (R63). -/
def ensureBuilt (s : State) : State :=
  { s with built := true, revidx := if s.built then s.revidx else revTable s.wordlist }

/-- What a look-up finds (R125). -/
inductive Lookup where
  /-- A coordinate is outside 0..25. -/
  | absentRange
  /-- The cell is ABSENT. -/
  | absentCell
  /-- The cell holds a byte. -/
  | value (v : Byte)
  deriving DecidableEq, Repr

/-- `lookup(x, y)` of R125. The range check comes first, so the cell index is within 0..675. -/
def lookup (table : RevIdx) (x y : Int) : Lookup :=
  if 0 ≤ x ∧ x < 26 ∧ 0 ≤ y ∧ y < 26 then
    match table[(cellIndex x y).toNat]?.join with
    | some v => .value v
    | none => .absentCell
  else .absentRange

end Sys2Proof.Machine
end

