-- ==== Sys2Proof/Machine/Decoder.lean ====
section
/-! DEFINITION. The token parser, the per-token mapper, the buffer check and the commands DECODE_WORD
and DECODE (spec/44_decoder.md R180 to R191). -/

namespace Sys2Proof.Machine

/-- The loop of `splitOn` in R180, with the token being gathered. -/
def splitFrom (c : Byte) (cur : List Byte) : List Byte → List (List Byte)
  | [] => [cur]
  | x :: t => if x = c then cur :: splitFrom c [] t else splitFrom c (cur ++ [x]) t

/-- `splitOn(sep, t)` of R180: s separators give s+1 tokens, and empty tokens are kept (D10). -/
def splitOn (c : Byte) (t : List Byte) : List (List Byte) := splitFrom c [] t

/-- `chunks2(t)` of R181: consecutive pairs from index 0, a last odd character alone (D11). -/
def chunks2 : List Byte → List (List Byte)
  | [] => []
  | [a] => [[a]]
  | a :: b :: t => [a, b] :: chunks2 t

/-- The token parser of a style (R180, R181, R190). -/
def tokens (st : Style) (t : List Byte) : List (List Byte) :=
  match sep st with
  | some c => splitOn c t
  | none => chunks2 t

/-- `decodeWord(t, L)` of R188: length, then coordinates (R182, R183), then middle letters (R185).
The parameters are CASE_FOLD_EDGES, WORDLIST and REVIDX. -/
def decodeToken (fold : Bool) (wl : Wordlist) (table : RevIdx) (len : Nat) (t : List Byte) :
    Except ErrorKind Byte :=
  if t.length ≠ len then .error .invalidWordLength
  else
    match lookup table (coord (edge fold (charAt t 0))) (coord (edge fold (charAt t (len - 1)))) with
    | .absentRange => .error .invalidWord
    | .absentCell => .error .invalidWord
    | .value v =>
      if len = 4 ∧ (lower (charAt t 1) ≠ (wordAt wl v).c1 ∨ lower (charAt t 2) ≠ (wordAt wl v).c2)
      then .error .invalidMiddleLetters
      else .ok v

/-- All tokens in order; the first failing one ends the command (R190, R191, D12). -/
def decodeTokens (fold : Bool) (wl : Wordlist) (table : RevIdx) (len : Nat) :
    List (List Byte) → Except ErrorKind (List Byte)
  | [] => .ok []
  | t :: ts =>
    match decodeToken fold wl table len t with
    | .error e => .error e
    | .ok v => (decodeTokens fold wl table len ts).map (v :: ·)

/-- The buffer check of R189: at least 5 bytes, and a trailer that is the checksum of the body. -/
def checkBuffer (buf : List Byte) : Except ErrorKind (List Byte) :=
  if buf.length < 5 then .error .invalidDecodedLength
  else
    let body := slice buf 0 (buf.length - 4)
    let trailer := slice buf (buf.length - 4) buf.length
    if crcBytes body ≠ trailer then .error .checksumMismatch else .ok body

/-- The text of IN to its payload (R190), from a state whose table is built. -/
def decodeText (st : Style) (s : State) : Except ErrorKind (List Byte) :=
  match decodeTokens s.cfg.caseFoldEdges s.wordlist s.revidx (tokenLen st) (tokens st s.inBuf) with
  | .error e => .error e
  | .ok buf => checkBuffer buf

/-- DECODE_WORD (R186): the style is checked first, then the table is built if it is not. -/
def execDecodeWord (style : BitVec 2) (s : State) : Host.Outcome State Fault Refusal :=
  match styleDecode style with
  | none => .next (raiseError .invalidStyle s)
  | some st =>
    let b := ensureBuilt s
    finish ((decodeToken b.cfg.caseFoldEdges b.wordlist b.revidx (tokenLen st) b.inBuf).map ([·])) b

/-- DECODE (R190): the style is checked first, then the table is built if it is not. -/
def execDecode (style : BitVec 2) (s : State) : Host.Outcome State Fault Refusal :=
  match styleDecode style with
  | none => .next (raiseError .invalidStyle s)
  | some st => finish (decodeText st (ensureBuilt s)) (ensureBuilt s)

end Sys2Proof.Machine
end

