-- ==== Sys2Proof/Machine/Encoder.lean ====
section
/-! DEFINITION. The word formatter and the command ENCODE (spec/43_encoder.md R160 to R163). -/

namespace Sys2Proof.Machine

/-- `join` of R161: one separator between each pair of adjacent words, none before or after. -/
def joinWords (c : Byte) : List (List Byte) → List Byte
  | [] => []
  | [w] => w
  | w :: ws => w ++ c :: joinWords c ws

/-- The text of a buffer in a style: words joined by the style's separator, or minimal codes with
nothing between them (R160, R161, R162). -/
def renderText (wl : Wordlist) (st : Style) (buf : List Byte) : List Byte :=
  match sep st with
  | some c => joinWords c (buf.map fun b => (wordAt wl b).chars)
  | none => (buf.map fun b => minimalWordAt wl b).flatten

/-- ENCODE (R160). The style is checked before anything is computed (R202). -/
def execEncode (style : BitVec 2) (s : State) : Host.Outcome State Fault Refusal :=
  match styleDecode style with
  | none => .next (raiseError .invalidStyle s)
  | some st => complete (renderText s.wordlist st (appendChecksum s.inBuf)) s

end Sys2Proof.Machine
end

