-- ==== Sys2Proof/Machine/Lookup.lean ====
section
/-! DEFINITION. The two look-up commands, WORD_AT and MINIMAL_WORD_AT (spec/40_wordlist.md R105, R106). -/

namespace Sys2Proof.Machine

/-- The operand of a look-up: IN must be exactly one byte (R76, R105, R106, D18). -/
def oneByteOperand (s : State) : Except ErrorKind Byte :=
  match s.inBuf with
  | [i] => .ok i
  | _ => .error .invalidOperandLength

/-- WORD_AT (R105). STYLE is ignored. -/
def execWordAt (_style : BitVec 2) (s : State) : Host.Outcome State Fault Refusal :=
  finish ((oneByteOperand s).map fun i => (wordAt s.wordlist i).chars) s

/-- MINIMAL_WORD_AT (R106). STYLE is ignored. -/
def execMinimalWordAt (_style : BitVec 2) (s : State) : Host.Outcome State Fault Refusal :=
  finish ((oneByteOperand s).map fun i => minimalWordAt s.wordlist i) s

end Sys2Proof.Machine
end

