-- ==== Sys2Proof/Machine/Dispatch.lean ====
section
/-! DEFINITION. One arm per command, each one call of the command's meaning (spec/30_encoding.md R71). -/

namespace Sys2Proof.Machine

def exec (i : Instr) (s : State) : Host.Outcome State Fault Refusal :=
  match i with
  | .crc32 style => Sys2Proof.Machine.execCrc32 style s
  | .appendChecksum style => Sys2Proof.Machine.execAppendChecksum style s
  | .wordAt style => Sys2Proof.Machine.execWordAt style s
  | .minimalWordAt style => Sys2Proof.Machine.execMinimalWordAt style s
  | .encode style => Sys2Proof.Machine.execEncode style s
  | .decodeWord style => Sys2Proof.Machine.execDecodeWord style s
  | .decode style => Sys2Proof.Machine.execDecode style s

end Sys2Proof.Machine
end

