-- ==== Sys2Proof/Machine/HostPort.lean ====
section
/-! DEFINITION. What each transaction of the host does at the interface (spec/10_state.md R24 to R27 and
R33; spec/20_memory.md R53 to R55; spec/70_reset_and_hazards.md R250). -/

namespace Sys2Proof.Machine

/-- IN ← t, within BUF_CAP (R26, R55 step 1). -/
def writeIn (t : List Byte) (s : State) : Host.Outcome State Fault Refusal :=
  if fits s.cfg.bufCap t.length then .next { s with inBuf := t }
  else .refused .inputExceedsCapacity

/-- IN[k] ← b, for an address of IN (R33, R50, R53). -/
def writeInByte (k : Nat) (b : Byte) (s : State) : Host.Outcome State Fault Refusal :=
  if k < s.inBuf.length then .next { s with inBuf := s.inBuf.set k b }
  else .fault .inIndexOutOfRange

/-- IN_LEN ← n, within BUF_CAP (R26, R33). The bytes that stay inside IN keep their values; each byte
that IN gains is a free value (log entry 7). The length arrives whole (log entry 22). -/
def writeInLen (n : Nat) (s : State) : Host.Outcome State Fault Refusal :=
  if fits s.cfg.bufCap n then
    .next { s with
      inBuf := s.inBuf.take n ++
        (List.range (n - s.inBuf.length)).map fun k => Config.freeByte (s.draws + k)
      draws := s.draws + (n - s.inBuf.length) }
  else .refused .inputExceedsCapacity

/-- The host gets an answer; a read has no other effect (R54). -/
def answer (v : HostValue) (s : State) : State := { s with reply := some v }

/-- A read of OUT[k]. At an index at or past OUT_LEN it answers a free value (R27, D32, U1). -/
def readOutByte (k : Nat) (s : State) : State :=
  match s.out[k]? with
  | some b => answer (.byte b) s
  | none => answer (.byte (Config.freeByte s.draws)) { s with draws := s.draws + 1 }

/-- A host read (R24, R25, R26, R27, R33, R54). A read of IN_LEN or OUT_LEN answers the whole length at
once: DESIGN CHOICE (log entry 22), since the spec gives the access no width. -/
def readHost (r : HostRead) (s : State) : Host.Outcome State Fault Refusal :=
  match r with
  | .cmd => .next (answer (.byte s.cmd) s)
  | .status => .next (answer (.byte (statusRead s.status)) s)
  | .inLen => .next (answer (.length s.inBuf.length) s)
  | .inByte k =>
    match s.inBuf[k]? with
    | some b => .next (answer (.byte b) s)
    | none => .fault .inIndexOutOfRange
  | .outLen => .next (answer (.length s.out.length) s)
  | .outByte k => .next (readOutByte k s)

/-- A write to CMD issues one command: CMD keeps the value (R24), the command is decoded and run
(R55), and an illegal value raises IllegalCommand before anything is read (R73, R74). -/
def issue (c : Byte) (s : State) : Host.Outcome State Fault Refusal :=
  match decodeCmd c with
  | .ok i => exec i { s with cmd := c }
  | .error _ => .next (raiseError .illegalCommand { s with cmd := c })

/-- One transaction of the host. -/
def transact (op : HostOp) (s : State) : Host.Outcome State Fault Refusal :=
  match op with
  | .writeIn t => writeIn t s
  | .writeInByte k b => writeInByte k b s
  | .writeInLen n => writeInLen n s
  | .writeCmd c => issue c s
  | .writeStatus _ => .next s
  | .read r => readHost r s
  | .reset => .next (resetBlock s)

end Sys2Proof.Machine
end

