-- ==== Sys2Proof/Machine/Step.lean ====
section
/-! DEFINITION. One step of the machine: the host's next transaction, whole (spec/20_memory.md R55, R58). -/

namespace Sys2Proof.Machine

/-- One step. BW-CORE fetches nothing (R21, R59): it acts on the host's next transaction, and is idle,
with its state kept, while there is none (R233). A command runs whole in one step (R55). -/
def step (s : State) : Host.Outcome State Fault Refusal :=
  match s.host with
  | [] => .next s
  | op :: rest => transact op { s with host := rest }

/-- `s` with the host about to write the command to CMD. A command is 8 bits long and has no operand
words (R70, R77), so `nbits` is 8 and the command is the low byte of `w`. -/
def State.withFetchWord (s : State) (_nbits w : Nat) : State :=
  { s with host := .writeCmd (BitVec.ofNat 8 w) :: s.host }

end Sys2Proof.Machine
end

