-- ==== Sys2Proof/Safety.lean ====
section
/-! DEFINITION. What a good state of BW-CORE is, in the terms the statements use: the cache rule of
spec/10_state.md R29 and R30, the invariant of the machine, and what the host can see
of a run (R31, R33; spec/70_reset_and_hazards.md R260), and what a good WORDLIST is (R100, R102). -/

namespace Sys2Proof.Machine

/-- The cache rule: while BUILT = 1, REVIDX equals the derived table (R29, R30). -/
def CacheOk (s : State) : Prop := s.built = true → s.revidx = revTable s.wordlist

/-- The state once the reverse index is built (R121, R122): nothing else changes. -/
def afterBuild (s : State) : State := { s with built := true, revidx := revTable s.wordlist }

/-- The invariant of the machine. -/
structure State.Inv (s : State) : Prop where
  /-- WORDLIST is well-formed (R100, R254). -/
  wordlist_wf : s.wordlist.wf = true
  /-- The cache rule (R29, R30). -/
  cache : CacheOk s
  /-- STATUS holds a code of R80, so 9 to 15 are never written and [7:4] is 0 (R25, U11). -/
  status_legal : s.status.toNat ≤ 8
  /-- OUT holds something only after a success (R222, R257). -/
  out_on_ok : s.status ≠ 0x00 → s.out = []
  /-- IN is a buffer within BUF_CAP (R26). -/
  in_wf : Memory.wf s.cfg.bufCap s.inBuf = true
  /-- OUT is a buffer within BUF_CAP (R27, R146). -/
  out_wf : Memory.wf s.cfg.bufCap s.out = true

/-- Two states that differ in the hidden cache alone, REVIDX and BUILT (R31, R33). -/
def SameButCache (s t : State) : Prop :=
  { s with built := t.built, revidx := t.revidx } = t

/-- Two outcomes the host cannot tell apart, each leaving a state that keeps the cache rule. -/
def AgreeButCache (a b : Host.Outcome State Fault Refusal) : Prop :=
  match a, b with
  | .next s, .next t => SameButCache s t ∧ CacheOk s ∧ CacheOk t
  | .fault r, .fault r' => r = r'
  | .refused r, .refused r' => r = r'
  | _, _ => False

/-- R100 (a) to (d), of the raw entries of an instantiation: 256 entries of four lowercase letters each,
all different, with different (first letter, last letter) pairs. -/
def GoodEntries (entries : List (List Byte)) : Prop :=
  entries.length = 256 ∧
  (∀ e ∈ entries, e.length = 4 ∧ ∀ c ∈ e, 0x61 ≤ c.toNat ∧ c.toNat ≤ 0x7A) ∧
  entries.Nodup ∧ (entries.map fun e => (e.head?, e.getLast?)).Nodup

/-- R102, of the raw entries of an instantiation. -/
def SourceAgrees (entries : List (List Byte)) : Prop :=
  entries[0x00]? = some [0x61, 0x62, 0x6C, 0x65] ∧
  entries[0xD2]? = some [0x74, 0x69, 0x65, 0x64] ∧
  entries[0x02]? = some [0x61, 0x6C, 0x73, 0x6F] ∧
  entries[0xEF]? = some [0x77, 0x65, 0x62, 0x73] ∧
  entries[0x8D]? = some [0x6C, 0x75, 0x6E, 0x67]

/-- The host's transactions for a sequence of pairs (IN value, CMD value), each written IN first
(R55, R260). -/
def hostPairs (pairs : List (List Byte × Byte)) : List HostOp :=
  pairs.flatMap fun p => [.writeIn p.1, .writeCmd p.2]

/-- What the host can see at the end of a run (R260). -/
structure Observation where
  cmd : Byte
  status : Byte
  inBuf : Memory
  out : Memory
  deriving DecidableEq, Repr

/-- The observation of a state: CMD, STATUS as it reads, IN and OUT (R33, R260). -/
def observe (s : State) : Observation where
  cmd := s.cmd
  status := statusRead s.status
  inBuf := s.inBuf
  out := s.out

end Sys2Proof.Machine
end

