-- ==== Sys2Proof/Certificates/Slice0/Obligations.lean ====
section
/-! DEFINITION. The statements about BW-CORE for the provers. Each docstring names the rules of spec/ a
statement formalises; status values stand as the numbers of spec/30_encoding.md R80. -/

open Sys2Proof Sys2Proof.Machine

/-! ## Encoding -/

/-- Decoding the words of a command gives the command back, whatever follows them, and a byte that
decodes is the encoding of what it decodes to (R70, R71, R77). -/
def Obligations.DecodeEncodeAgree : Prop :=
  (∀ (i : Instr) (rest : List Byte), i.wf = true → decode (encode i ++ rest) = .ok (i, rest)) ∧
  (∀ (c : Byte) (i : Instr), decodeCmd c = .ok i → encodeCmd i = c)

/-- A few CMD values written out from R78, one for each operation and every style of the last three. -/
def Obligations.WrittenWordsDecode : Prop :=
  decodeTableWord 8 0x01 = some (.crc32 0) ∧
  decodeTableWord 8 0x31 = some (.crc32 3) ∧
  decodeTableWord 8 0x02 = some (.appendChecksum 0) ∧
  decodeTableWord 8 0x03 = some (.wordAt 0) ∧
  decodeTableWord 8 0x04 = some (.minimalWordAt 0) ∧
  decodeTableWord 8 0x05 = some (.encode 0) ∧ decodeTableWord 8 0x15 = some (.encode 1) ∧
  decodeTableWord 8 0x25 = some (.encode 2) ∧ decodeTableWord 8 0x35 = some (.encode 3) ∧
  decodeTableWord 8 0x06 = some (.decodeWord 0) ∧ decodeTableWord 8 0x16 = some (.decodeWord 1) ∧
  decodeTableWord 8 0x26 = some (.decodeWord 2) ∧ decodeTableWord 8 0x36 = some (.decodeWord 3) ∧
  decodeTableWord 8 0x07 = some (.decode 0) ∧ decodeTableWord 8 0x17 = some (.decode 1) ∧
  decodeTableWord 8 0x27 = some (.decode 2) ∧ decodeTableWord 8 0x37 = some (.decode 3) ∧
  decodeTableWord 8 0x00 = none ∧ decodeTableWord 8 0x08 = none ∧
  decodeTableWord 8 0x41 = none ∧ decodeTableWord 8 0x85 = none

/-- R73: which CMD values are illegal, that there are 228 of them, and what a write of one does: CMD
keeps the value, OUT is emptied, STATUS is 7, and nothing else changes. -/
def Obligations.IllegalCommandRaises : Prop :=
  (∀ c : Byte, (∃ i, decodeCmd c = .ok i) ↔
    ¬ (rsvField c ≠ 0 ∨ opField c = 0 ∨ 8 ≤ (opField c).toNat)) ∧
  ((List.range 256).countP fun n => (decodeCmd (BitVec.ofNat 8 n)).isOk) = 28 ∧
  ∀ (s : State) (c : Byte) (rest : List HostOp), s.host = .writeCmd c :: rest →
    (rsvField c ≠ 0 ∨ opField c = 0 ∨ 8 ≤ (opField c).toNat) →
    step s = .next { s with host := rest, cmd := c, out := [], status := 0x07 }

/-- R74: the order in which a command is decoded, as the step runs it. RSV comes first, then OP; with
RSV = 00 and an assigned OP the operation of that OP runs, on the STYLE field, with CMD holding the
value written; and the three operations that read STYLE raise InvalidStyle before anything else. -/
def Obligations.CommandDecodeOrder : Prop :=
  ∀ (s : State) (c : Byte) (rest : List HostOp), s.host = .writeCmd c :: rest →
    let s' : State := { s with host := rest, cmd := c }
    let st := styleField c
    (rsvField c = 0 → st = 0b11 → opField c = 0x5 ∨ opField c = 0x6 ∨ opField c = 0x7 →
      step s = .next { s' with out := [], status := 0x01 }) ∧
    if rsvField c ≠ 0 then step s = .next { s' with out := [], status := 0x07 }
    else if opField c = 0x1 then step s = exec (.crc32 st) s'
    else if opField c = 0x2 then step s = exec (.appendChecksum st) s'
    else if opField c = 0x3 then step s = exec (.wordAt st) s'
    else if opField c = 0x4 then step s = exec (.minimalWordAt st) s'
    else if opField c = 0x5 then step s = exec (.encode st) s'
    else if opField c = 0x6 then step s = exec (.decodeWord st) s'
    else if opField c = 0x7 then step s = exec (.decode st) s'
    else step s = .next { s' with out := [], status := 0x07 }

/-! ## The step and the host port -/

/-- A step runs the decoded instruction: where the host's next transaction writes to CMD a value that
decodes to `i`, the step is `exec i` on the state with CMD written and the transaction consumed (R24,
R55). `withFetchWord` puts such a transaction first. -/
def Obligations.StepRunsDecodedCommand : Prop :=
  (∀ (s : State) (c : Byte) (rest : List HostOp) (i : Instr),
    s.host = .writeCmd c :: rest → decodeCmd c = .ok i →
    step s = exec i { s with host := rest, cmd := c }) ∧
  (∀ (s : State) (i : Instr),
    step (s.withFetchWord 8 (encodeCmd i).toNat) = exec i { s with cmd := encodeCmd i })

/-- The host's two writes of one command, IN and then CMD, and the idle machine between commands. That
the host's transactions stand in a list, taken in order, one step each, is the model's (log entries 5
and 15). -/
def Obligations.HostWritesInThenCommand : Prop :=
  (∀ (s : State) (t : List Byte) (c : Byte) (i : Instr) (rest : List HostOp),
    s.host = .writeIn t :: .writeCmd c :: rest → decodeCmd c = .ok i →
    fits s.cfg.bufCap t.length = true →
    ∃ s', step s = .next s' ∧ s' = { s with host := .writeCmd c :: rest, inBuf := t } ∧
      step s' = exec i { s with host := rest, inBuf := t, cmd := c }) ∧
  (∀ s : State, s.host = [] → step s = .next s)

/-- Byte and length writes of IN. A byte write at an address of IN changes that byte alone; a write of
IN_LEN keeps the bytes that stay inside and leaves the gained ones free. That the host has these two
transactions, what the second keeps, and that it carries the length whole is the model's choice (log
entries 6, 7 and 22). -/
def Obligations.HostWritesPartOfIn : Prop :=
  (∀ (s : State) (k : Nat) (b : Byte) (rest : List HostOp),
    s.host = .writeInByte k b :: rest → k < s.inBuf.length →
    step s = .next { s with host := rest, inBuf := s.inBuf.set k b }) ∧
  (∀ (s : State) (n : Nat) (rest : List HostOp),
    s.host = .writeInLen n :: rest → fits s.cfg.bufCap n = true →
    ∃ s', step s = .next s' ∧
      s' = { s with host := rest, inBuf := s'.inBuf, draws := s'.draws } ∧
      s'.inBuf.length = n ∧ ∀ k, k < n → k < s.inBuf.length → s'.inBuf[k]? = s.inBuf[k]?)

/-- Where a host access stops, with its name: a read or a byte write of IN at an address past its end
(R50 gives IN no such address), and a write that would make IN longer than BUF_CAP (R26). The spec
gives these accesses no effect; that they stop is the model's (log entries 3 and 8), and so is the
write of IN_LEN whole (log entry 22). -/
def Obligations.HostAccessStops : Prop :=
  ∀ (s : State) (op : HostOp) (rest : List HostOp), s.host = op :: rest →
    match op with
    | .read (.inByte k) => s.inBuf.length ≤ k ↔ step s = .fault .inIndexOutOfRange
    | .writeInByte k _ => s.inBuf.length ≤ k ↔ step s = .fault .inIndexOutOfRange
    | .writeIn u => fits s.cfg.bufCap u.length = false ↔ step s = .refused .inputExceedsCapacity
    | .writeInLen n => fits s.cfg.bufCap n = false ↔ step s = .refused .inputExceedsCapacity
    | .writeCmd _ => ∀ f, step s ≠ .fault f
    | .read _ | .writeStatus _ | .reset => ∃ t, step s = .next t

/-- R54: a host read changes nothing but what the host holds (its answer, and the count of free bytes
drawn), in every state. -/
def Obligations.HostReadsHaveNoSideEffect : Prop :=
  ∀ (s t : State) (r : HostRead) (rest : List HostOp),
    s.host = .read r :: rest → step s = .next t →
    t = { s with host := rest, reply := t.reply, draws := t.draws }

/-- What each host read answers (R24, R25, R26, R27): CMD as last written, STATUS with [7:4] zero, the
lengths, and the bytes inside IN and OUT. The last clause is the model's choice: the spec leaves a read at
or past OUT_LEN open (U1 allows a draw or a refusal), and the model answers a free byte and counts one
draw (log entries 12 and 11). So is that a length is answered whole, in one transaction (log entry 22). -/
def Obligations.HostReadAnswers : Prop :=
  ∀ (s : State) (r : HostRead) (rest : List HostOp), s.host = .read r :: rest →
    match r with
    | .cmd => step s = .next { s with host := rest, reply := some (.byte s.cmd) }
    | .status =>
      step s = .next { s with host := rest, reply := some (.byte (s.status &&& 0x0F)) }
    | .inLen => step s = .next { s with host := rest, reply := some (.length s.inBuf.length) }
    | .outLen => step s = .next { s with host := rest, reply := some (.length s.out.length) }
    | .inByte k => ∀ b, s.inBuf[k]? = some b →
        step s = .next { s with host := rest, reply := some (.byte b) }
    | .outByte k =>
        (∀ b, s.out[k]? = some b →
          step s = .next { s with host := rest, reply := some (.byte b) }) ∧
        (s.out.length ≤ k →
          ∃ b, step s =
            .next { s with host := rest, reply := some (.byte b), draws := s.draws + 1 })

/-- R25: STATUS. A host write to it has no effect; a host read gives zero in [7:4] and CODE in [3:0], in
every state; its reset value is 0x00; and every value written to CMD, legal or not, writes it, whatever
it held before, with OK or the code of an error (R80). -/
def Obligations.StatusRegister : Prop :=
  (∀ (s : State) (b : Byte) (rest : List HostOp), s.host = .writeStatus b :: rest →
    step s = .next { s with host := rest }) ∧
  (∀ s : State, (statusRead s.status).extractLsb' 4 4 = 0#4 ∧
    (statusRead s.status).extractLsb' 0 4 = s.status.extractLsb' 0 4) ∧
  State.reset.status = 0x00 ∧
  (∀ (s : State) (c b : Byte) (rest : List HostOp), s.host = .writeCmd c :: rest →
    step { s with status := b } = step s) ∧
  (∀ (s t : State) (c : Byte) (rest : List HostOp), s.host = .writeCmd c :: rest →
    step s = .next t → t.status.extractLsb' 4 4 = 0#4 ∧ t.status.toNat ≤ 8 ∧
      (t.status = 0x00 ∨ ∃ e : ErrorKind, t.status = statusWord (errorCode e)))

/-- R250: what reset leaves, after power-up and when it arrives between two commands. It empties the
interface, clears BUILT and leaves WORDLIST; what REVIDX holds is not said. That the reset leaves what
stands outside the block (the parameters, the transactions to come, the host's last answer, the count
of draws) is the model's (log entry 19, and log entry 5 for the list of transactions); R250 says
nothing of it. -/
def Obligations.ResetValues : Prop :=
  (State.reset.cmd = 0x00 ∧ State.reset.status = 0x00 ∧ State.reset.inBuf = [] ∧
    State.reset.out = [] ∧ State.reset.built = false ∧
    State.reset.wordlist = defaultWordlist) ∧
  ∀ (s : State) (rest : List HostOp), s.host = .reset :: rest →
    ∃ t, step s = .next t ∧
      t = { s with
        host := rest, cmd := 0x00, status := 0x00, inBuf := [], out := [], built := false,
        revidx := t.revidx }

/-- R33: which step may write which piece of state. CMD changes by a write to CMD or by reset; IN by
the host's writes of IN or by reset; STATUS and OUT by a command or by reset; REVIDX and BUILT by a
decoder command whose style is valid, or by reset; WORDLIST by nothing. -/
def Obligations.AccessRights : Prop :=
  ∀ (s t : State) (op : HostOp) (rest : List HostOp),
    s.host = op :: rest → step s = .next t →
    t.wordlist = s.wordlist ∧ t.cfg = s.cfg ∧ t.host = rest ∧
    (t.cmd ≠ s.cmd → op = .reset ∨ ∃ c, op = .writeCmd c) ∧
    (t.inBuf ≠ s.inBuf → op = .reset ∨ (∃ u, op = .writeIn u) ∨
      (∃ k b, op = .writeInByte k b) ∨ ∃ n, op = .writeInLen n) ∧
    ((t.status ≠ s.status ∨ t.out ≠ s.out) → op = .reset ∨ ∃ c, op = .writeCmd c) ∧
    ((t.built ≠ s.built ∨ t.revidx ≠ s.revidx) → op = .reset ∨
      ∃ c st, op = .writeCmd c ∧ styleDecode st ≠ none ∧
        (decodeCmd c = .ok (.decodeWord st) ∨ decodeCmd c = .ok (.decode st)))

/-! ## Commands in general -/

/-- The invariant is kept by every step, from every state that has it, and not only along a run from
reset. -/
def Obligations.StepKeepsInvariant : Prop :=
  ∀ s t : State, s.Inv → step s = .next t → t.Inv

/-- The invariant holds right after reset. -/
def Obligations.ResetHasInvariant : Prop := State.reset.Inv

/-- R222: the effect of an error, for every value written to CMD, legal or not. STATUS is not OK exactly
when an error of R80 is raised; then STATUS is its code, OUT is empty, and everything else stands as
the write of CMD left it, but for the build of the reverse index by a decoder command whose style is
valid. -/
def Obligations.ErrorEffect : Prop :=
  ∀ (s t : State) (c : Byte) (rest : List HostOp), s.host = .writeCmd c :: rest →
    step s = .next t → t.status ≠ 0x00 →
    let s' : State := { s with host := rest, cmd := c }
    ∃ e : ErrorKind, t.status = statusWord (errorCode e) ∧
      (t = { s' with out := [], status := t.status } ∨
        ∃ st, (decodeCmd c = .ok (.decodeWord st) ∨ decodeCmd c = .ok (.decode st)) ∧
          styleDecode st ≠ none ∧
          t = { s' with
            out := [], status := t.status, built := true,
            revidx := if s.built then s.revidx else revTable s.wordlist })

/-- Every command completes when the buffers are unbounded, as the spec takes them (R8): no ordinary
data ends a run. -/
def Obligations.EveryCommandCompletes : Prop :=
  ∀ (i : Instr) (s : State), s.cfg.bufCap = none → ∃ t, exec i s = .next t

/-- R146: capacity. Let `t` be what the command does with unbounded buffers. If OUT of `t` fits
BUF_CAP, that is what it does; if not, the command is refused, and no status is written. With the
default BUF_CAP the refusal never happens. -/
def Obligations.CapacityRefusal : Prop :=
  (∀ (i : Instr) (s : State), ∃ t,
    exec i { s with cfg := { s.cfg with bufCap := none } } = .next t ∧
    exec i s =
      if fits s.cfg.bufCap t.out.length then .next { t with cfg := s.cfg }
      else .refused .resultExceedsCapacity) ∧
  Config.spec.bufCap = none ∧ ∀ n, fits none n = true

/-- R60: two states with the same IN, WORDLIST and parameters, and the cache rule, answer the same CMD
value with the same STATUS and OUT, or both refuse it, whatever else they hold. -/
def Obligations.CommandIsFunctionOfCmdAndIn : Prop :=
  ∀ (s t : State) (c : Byte) (rest rest' : List HostOp),
    s.host = .writeCmd c :: rest → t.host = .writeCmd c :: rest' →
    s.inBuf = t.inBuf → s.wordlist = t.wordlist → s.cfg = t.cfg → CacheOk s → CacheOk t →
    match step s, step t with
    | .next s', .next t' => s'.status = t'.status ∧ s'.out = t'.out
    | .refused r, .refused r' => r = r'
    | _, _ => False

/-- The hidden cache never shows: runs of any length from two states that differ in REVIDX and BUILT
alone, both keeping the cache rule, stay alike in everything but the cache. The spec's own inference
in spec/41_reverse_index.md section 1 (transparency, R124). -/
def Obligations.CacheNeverShows : Prop :=
  ∀ (n : Nat) (s t : State), SameButCache s t → CacheOk s → CacheOk t →
    AgreeButCache (Sys2Proof.core.run n s) (Sys2Proof.core.run n t)

/-- A run of pairs (IN value, CMD value) completes with unbounded buffers, whatever the values: two steps
for each pair and nothing left over. At its end CMD and IN are those of the last pair, and nothing
outside the block has moved. That commands complete, and what a run is, is in
spec/70_reset_and_hazards.md sections 4 and 5. The count of steps is the model's: the writes of IN and
of CMD are two transactions, each one step (log entries 5 and 15), where spec/95_test_vectors.md
section 3 calls a pair one atomic step. -/
def Obligations.RunOfPairsCompletes : Prop :=
  ∀ (s : State) (pairs : List (List Byte × Byte)), s.cfg.bufCap = none →
    s.host = hostPairs pairs →
    ∃ t, Sys2Proof.core.run (2 * pairs.length) s = .next t ∧ t.host = [] ∧
      t.wordlist = s.wordlist ∧ t.cfg = s.cfg ∧ t.reply = s.reply ∧ t.draws = s.draws ∧
      ∀ p, pairs.getLast? = some p → t.inBuf = p.1 ∧ t.cmd = p.2

/-- What the host sees at the end of a run of pairs is what it sees after the last pair alone from
reset: no earlier command, error or build leaves a trace. From the determinism of a command and the
transparency of the cache (spec/20_memory.md section 5, spec/60_exceptions.md section 2). The count of
steps, two for each pair, is the model's (log entries 5 and 15). -/
def Obligations.RunShowsLastPairOnly : Prop :=
  ∀ (s t : State) (pairs : List (List Byte × Byte)) (p : List Byte × Byte), CacheOk s →
    s.host = hostPairs (pairs ++ [p]) →
    Sys2Proof.core.run (2 * (pairs.length + 1)) s = .next t →
    ∃ u, Sys2Proof.core.run 2 { resetBlock s with host := hostPairs [p] } = .next u ∧
      observe t = observe u

/-- R122: when the reverse index is built. A DECODE_WORD or DECODE that passes its style check leaves
BUILT = 1, with the table if it was not built and the table it had if it was; every other command, and
these two with STYLE = 11, leave REVIDX and BUILT as they were and act alike whatever the two hold. -/
def Obligations.BuildOfReverseIndex : Prop :=
  ∀ (i : Instr) (s t : State), exec i s = .next t →
    if (∃ st, styleDecode st ≠ none ∧ (i = .decodeWord st ∨ i = .decode st)) then
      t.built = true ∧ (s.built = false → t.revidx = revTable s.wordlist) ∧
        (s.built = true → t.revidx = s.revidx)
    else
      t.built = s.built ∧ t.revidx = s.revidx ∧
        ∀ (b : Bool) (table : RevIdx),
          exec i { s with built := b, revidx := table } = .next { t with built := b, revidx := table }

/-- Issuing a command again, with IN as it was, changes nothing more: the second run leaves the very
state of the first (spec/60_exceptions.md section 2, no retry and determinism). -/
def Obligations.CommandRepeated : Prop :=
  ∀ (i : Instr) (s t : State), exec i s = .next t → exec i t = .next t

/-! ## Checksum -/

/-- R142: CRC32. -/
def Obligations.Crc32Command : Prop :=
  (∀ ss : BitVec 2, decodeCmd ((0#2 ++ ss) ++ 0x1#4) = .ok (.crc32 ss)) ∧
  (∀ (ss : BitVec 2) (s : State), fits s.cfg.bufCap 4 = true →
    exec (.crc32 ss) s = .next { s with out := crcBytes s.inBuf, status := 0x00 }) ∧
  (∀ u : List Byte, (crcBytes u).length = 4) ∧
  crcBytes [] = [0x00, 0x00, 0x00, 0x00] ∧ crcBytes [0x00] = [0xD2, 0x02, 0xEF, 0x8D]

/-- R143: APPEND_CHECKSUM. -/
def Obligations.AppendChecksumCommand : Prop :=
  (∀ ss : BitVec 2, decodeCmd ((0#2 ++ ss) ++ 0x2#4) = .ok (.appendChecksum ss)) ∧
  (∀ (ss : BitVec 2) (s : State),
    exec (.appendChecksum ss) s =
      if fits s.cfg.bufCap (s.inBuf.length + 4) then
        .next { s with out := s.inBuf ++ crcBytes s.inBuf, status := 0x00 }
      else .refused .resultExceedsCapacity) ∧
  [] ++ crcBytes [] = [0x00, 0x00, 0x00, 0x00] ∧
  [0x00] ++ crcBytes [0x00] = [0x00, 0xD2, 0x02, 0xEF, 0x8D]

/-- The checksum of R140 has the values of spec/42_checksum.md section 1 and of
spec/95_test_vectors.md section 2.1. -/
def Obligations.ChecksumValues : Prop :=
  crc32 [0x00] = 0xD202EF8D ∧ crc32 [] = 0x00000000 ∧ crc32 [0xFF] = 0xFF000000 ∧
  crc32 [0x00, 0x00, 0x00, 0x00] = 0x2144DF1C ∧ crc32 [0xDE, 0xAD, 0xBE, 0xEF] = 0x7C9CA35A ∧
  crc32 [0x31, 0x32, 0x33, 0x34, 0x35, 0x36, 0x37, 0x38, 0x39] = 0xCBF43926

/-- R141: the checksum is rendered most significant byte first. -/
def Obligations.ChecksumByteOrder : Prop :=
  crcBytes [0x00] = [0xD2, 0x02, 0xEF, 0x8D] ∧
  ∀ u : List Byte, ∃ b3 b2 b1 b0 : Byte, crcBytes u = [b3, b2, b1, b0] ∧
    (crc32 u).toNat = b3.toNat * 2 ^ 24 + b2.toNat * 2 ^ 16 + b1.toNat * 2 ^ 8 + b0.toNat

/-- The table-driven form of the checksum that R144 names: one table look-up a byte, by the low byte
of the accumulator. -/
def Sys2Proof.Machine.tableCrc32 (u : List Byte) : Word32 :=
  u.foldl (fun (acc : Word32) (b : Byte) =>
      (acc >>> 8) ^^^ Nat.iterate crcBit 8 ((acc.extractLsb' 0 8 ^^^ b).zeroExtend 32))
    0xFFFFFFFF ^^^ 0xFFFFFFFF

/-- The table-driven generator equals the bit-serial one on every byte string (the equivalent forms of
spec/42_checksum.md section 1). -/
def Obligations.TableDrivenChecksum : Prop := ∀ u : List Byte, tableCrc32 u = crc32 u

/-- The checksum is affine over equal-length strings, and two strings that differ only inside four
consecutive bytes have different checksums. The spec's own inference from R140, in
spec/42_checksum.md section 2 (linearity, R147). -/
def Obligations.ChecksumDetectsBursts : Prop :=
  (∀ a b c : List Byte, a.length = b.length → b.length = c.length →
    crc32 (List.zipWith (· ^^^ ·) (List.zipWith (· ^^^ ·) a b) c) =
      crc32 a ^^^ crc32 b ^^^ crc32 c) ∧
  ∀ pre mid mid' post : List Byte, mid.length = mid'.length → mid.length ≤ 4 → mid ≠ mid' →
    crc32 (pre ++ mid ++ post) ≠ crc32 (pre ++ mid' ++ post)

/-! ## Wordlist and reverse index -/

/-- R100: an instantiation that breaks (a), (b), (c) or (d) is refused as ill-formed. One that is
accepted meets them, and is not repaired: its word for byte i is the i-th of the entries given (e).
One that meets them, and agrees with the five entries every instantiation must have, is accepted. -/
def Obligations.InstantiationOfWordlist : Prop :=
  ∀ (cfg : Config) (entries : List (List Byte)),
    (¬ GoodEntries entries → instantiate cfg entries = .refused .illFormedWordlist) ∧
    (∀ s, instantiate cfg entries = .next s → GoodEntries entries ∧
      s = { State.reset with wordlist := s.wordlist, cfg := cfg } ∧
      ∀ i : Byte, entries[i.toNat]? = some (wordAt s.wordlist i).chars) ∧
    (GoodEntries entries → SourceAgrees entries → ∃ s, instantiate cfg entries = .next s)

/-- An instantiation that meets R100 and disagrees with one of the five entries of R102 is refused under
a name of its own. That it is refused is the model's reading (log entry 9). -/
def Obligations.DisagreeingWordlistRefused : Prop :=
  ∀ (cfg : Config) (entries : List (List Byte)), GoodEntries entries →
    (¬ SourceAgrees entries ↔ instantiate cfg entries = .refused .wordlistDisagreesWithSource)

/-- R102: the five entries that the source fixes, in the default table and in every instantiation, and
the two texts of the source's first vector that fix them. -/
def Obligations.SourceEntries : Prop :=
  (wordAt defaultWordlist 0x00).chars = [0x61, 0x62, 0x6C, 0x65] ∧
  (wordAt defaultWordlist 0xD2).chars = [0x74, 0x69, 0x65, 0x64] ∧
  (wordAt defaultWordlist 0x02).chars = [0x61, 0x6C, 0x73, 0x6F] ∧
  (wordAt defaultWordlist 0xEF).chars = [0x77, 0x65, 0x62, 0x73] ∧
  (wordAt defaultWordlist 0x8D).chars = [0x6C, 0x75, 0x6E, 0x67] ∧
  ∀ (cfg : Config) (entries : List (List Byte)) (s : State),
    instantiate cfg entries = .next s → SourceAgrees entries ∧
      renderText s.wordlist .standard [0x00, 0xD2, 0x02, 0xEF, 0x8D] =
        [0x61, 0x62, 0x6C, 0x65, 0x20, 0x74, 0x69, 0x65, 0x64, 0x20, 0x61, 0x6C, 0x73, 0x6F, 0x20,
          0x77, 0x65, 0x62, 0x73, 0x20, 0x6C, 0x75, 0x6E, 0x67] ∧
      renderText s.wordlist .minimal [0x00, 0xD2, 0x02, 0xEF, 0x8D] =
        [0x61, 0x65, 0x74, 0x64, 0x61, 0x6F, 0x77, 0x73, 0x6C, 0x67]

/-- R104: M is injective on a well-formed WORDLIST, and the reverse index is its inverse. -/
def Obligations.ReverseIndexInvertsMinimalCode : Prop :=
  ∀ wl : Wordlist, wl.wf = true →
    (∀ i : Byte, minimalWordAt wl i = [(wordAt wl i).c0, (wordAt wl i).c3]) ∧
    (∀ i j : Byte, minimalWordAt wl i = minimalWordAt wl j → i = j) ∧
    ∀ (a b v : Byte), lookup (revTable wl) (coord a) (coord b) = .value v ↔
      minimalWordAt wl v = [a, b]

/-- R121: the derived table. A cell holds the index whose word has that cell, and is ABSENT when there
is none; 256 cells are present and 420 ABSENT; the build loop leaves exactly this table; and the
machine's build sets BUILT together with it. -/
def Obligations.DerivedTable : Prop :=
  ∀ wl : Wordlist, wl.wf = true →
    (∀ c : Nat, c < 676 → ∀ i : Byte, (revTable wl)[c]? = some (some i) ↔
      (coord (wordAt wl i).c3) * 26 + coord (wordAt wl i).c0 = (c : Int)) ∧
    (revTable wl).toList.countP Option.isSome = 256 ∧
    (revTable wl).toList.countP Option.isNone = 420 ∧
    buildLoop wl = revTable wl ∧
    ∀ s : State, s.wordlist = wl → s.built = false →
      ensureBuilt s = { s with revidx := buildLoop wl, built := true }

/-- R125: the look-up, on any table: the range check, then the cell; and both ways of being absent lead
to InvalidWord in a token of the right length. -/
def Obligations.LookupCases : Prop :=
  (∀ (table : RevIdx) (x y : Int),
    (¬ (0 ≤ x ∧ x < 26 ∧ 0 ≤ y ∧ y < 26) → lookup table x y = .absentRange) ∧
    ∀ a b : Nat, a < 26 → b < 26 →
      (table[b * 26 + a]? = some none → lookup table a b = .absentCell) ∧
      ∀ v, table[b * 26 + a]? = some (some v) → lookup table a b = .value v) ∧
  ∀ (table : RevIdx) (fold : Bool) (wl : Wordlist) (t : List Byte),
    let found := lookup table (coord (edge fold (charAt t 0)))
      (coord (edge fold (charAt t (t.length - 1))))
    found = .absentRange ∨ found = .absentCell →
      decodeToken fold wl table t.length t = .error .invalidWord

/-- The cells of the default WORDLIST's words, in index order, are those of R126. -/
def Obligations.DefaultCells : Prop :=
  defaultWordlist.toList.map wordCell =
    [
      104, 78, 364, 598, 0, 182, 312, 494, 624, 468, 261, 79, 339, 495, 1, 469,
      105, 625, 157, 573, 27, 651, 314, 184, 470, 132, 626, 574, 106, 2, 262, 496,
      600, 288, 392, 340, 263, 3, 471, 211, 107, 497, 445, 341, 575, 393, 315, 289,
      627, 186, 628, 368, 108, 56, 342, 316, 498, 472, 499, 447, 343, 473, 317, 187,
      655, 395, 577, 603, 629, 109, 161, 291, 83, 6, 110, 448, 474, 500, 292, 578,
      84, 630, 318, 526, 188, 370, 137, 163, 85, 267, 501, 397, 189, 293, 631, 111,
      345, 475, 86, 8, 112, 190, 632, 372, 476, 346, 320, 113, 659, 347, 503, 295,
      373, 477, 399, 269, 633, 400, 374, 504, 478, 270, 348, 166, 114, 218, 36, 37,
      11, 635, 141, 479, 453, 401, 349, 505, 375, 89, 115, 531, 271, 167, 350, 636,
      194, 116, 376, 532, 584, 90, 506, 480, 272, 299, 637, 91, 481, 507, 351, 117,
      39, 638, 118, 508, 612, 352, 300, 482, 93, 509, 275, 639, 483, 327, 301, 119,
      145, 15, 457, 94, 666, 121, 407, 303, 381, 199, 95, 277, 147, 641, 355, 485,
      511, 122, 18, 460, 486, 278, 590, 512, 408, 382, 174, 44, 148, 356, 383, 279,
      227, 513, 97, 123, 643, 305, 45, 487, 409, 19, 357, 644, 384, 514, 124, 462,
      515, 645, 385, 307, 125, 593, 21, 99, 489, 308, 100, 334, 412, 126, 646, 490,
      516, 360, 672, 152, 282, 284, 362, 310, 24, 518, 493, 389, 519, 77, 129, 337]

/-- R105: WORD_AT. -/
def Obligations.WordAtCommand : Prop :=
  (∀ ss : BitVec 2, decodeCmd ((0#2 ++ ss) ++ 0x3#4) = .ok (.wordAt ss)) ∧
  (∀ (ss : BitVec 2) (s : State),
    (∀ i, s.inBuf = [i] → fits s.cfg.bufCap 4 = true →
      exec (.wordAt ss) s =
        .next { s with out := (wordAt s.wordlist i).chars, status := 0x00 }) ∧
    (s.inBuf.length ≠ 1 → exec (.wordAt ss) s = .next { s with out := [], status := 0x08 })) ∧
  (wordAt defaultWordlist 0x00).chars = [0x61, 0x62, 0x6C, 0x65] ∧
  (wordAt defaultWordlist 0xFF).chars = [0x7A, 0x6F, 0x6F, 0x6D] ∧
  (wordAt defaultWordlist 0xD2).chars = [0x74, 0x69, 0x65, 0x64]

/-- R106: MINIMAL_WORD_AT. -/
def Obligations.MinimalWordAtCommand : Prop :=
  (∀ ss : BitVec 2, decodeCmd ((0#2 ++ ss) ++ 0x4#4) = .ok (.minimalWordAt ss)) ∧
  (∀ (ss : BitVec 2) (s : State),
    (∀ i, s.inBuf = [i] → fits s.cfg.bufCap 2 = true →
      exec (.minimalWordAt ss) s =
        .next { s with
          out := [(wordAt s.wordlist i).c0, (wordAt s.wordlist i).c3], status := 0x00 }) ∧
    (s.inBuf.length ≠ 1 →
      exec (.minimalWordAt ss) s = .next { s with out := [], status := 0x08 })) ∧
  minimalWordAt defaultWordlist 0x04 = [0x61, 0x61] ∧
  minimalWordAt defaultWordlist 0xFF = [0x7A, 0x6D] ∧
  minimalWordAt defaultWordlist 0x8D = [0x6C, 0x67]

/-! ## Styles -/

/-- R201: the style multiplexer. -/
def Obligations.StyleTable : Prop :=
  styleDecode 0b00 = some .standard ∧ styleDecode 0b01 = some .uri ∧
  styleDecode 0b10 = some .minimal ∧ styleDecode 0b11 = none ∧
  (fullWords .standard = true ∧ sep .standard = some 0x20 ∧ tokenLen .standard = 4 ∧
    middleCheck .standard = true) ∧
  (fullWords .uri = true ∧ sep .uri = some 0x2D ∧ tokenLen .uri = 4 ∧ middleCheck .uri = true) ∧
  (fullWords .minimal = false ∧ sep .minimal = none ∧ tokenLen .minimal = 2 ∧
    middleCheck .minimal = false) ∧
  ∀ st : Style, middleCheck st = true ↔ tokenLen st = 4

/-- R202 and R72: the decoding of STYLE; STYLE = 11 raises InvalidStyle in the three commands that read STYLE, whatever IN
holds, with the cache left as it is; the four other commands act alike for all four values. -/
def Obligations.InvalidStyleAndIgnoredStyle : Prop :=
  (styleDecode 0b00 = some .standard ∧ styleDecode 0b01 = some .uri ∧
    styleDecode 0b10 = some .minimal ∧ styleDecode 0b11 = none) ∧
  (∀ s : State,
    exec (.encode 0b11) s = .next { s with out := [], status := 0x01 } ∧
    exec (.decodeWord 0b11) s = .next { s with out := [], status := 0x01 } ∧
    exec (.decode 0b11) s = .next { s with out := [], status := 0x01 }) ∧
  (∀ (a b : BitVec 2) (s : State),
    exec (.crc32 a) s = exec (.crc32 b) s ∧
    exec (.appendChecksum a) s = exec (.appendChecksum b) s ∧
    exec (.wordAt a) s = exec (.wordAt b) s ∧
    exec (.minimalWordAt a) s = exec (.minimalWordAt b) s) ∧
  ∀ (i : Instr) (s t : State), exec i s = .next t → t.status = 0x01 →
    i = .encode 0b11 ∨ i = .decodeWord 0b11 ∨ i = .decode 0b11

/-! ## Encoder -/

/-- R160: ENCODE, in each of the four values of STYLE, with the result written out; no word of a
well-formed WORDLIST holds a separator; and the texts of the empty payload and of the example. -/
def Obligations.EncodeCommand : Prop :=
  (∀ ss : BitVec 2, decodeCmd ((0#2 ++ ss) ++ 0x5#4) = .ok (.encode ss)) ∧
  (∀ s : State,
    let buf := s.inBuf ++ crcBytes s.inBuf
    let words := buf.map fun b => (wordAt s.wordlist b).chars
    let n := s.inBuf.length
    (fits s.cfg.bufCap (5 * n + 19) = true →
      exec (.encode 0b00) s = .next { s with out := joinWords 0x20 words, status := 0x00 } ∧
      exec (.encode 0b01) s = .next { s with out := joinWords 0x2D words, status := 0x00 }) ∧
    (fits s.cfg.bufCap (2 * n + 8) = true →
      exec (.encode 0b10) s =
        .next { s with
          out := (buf.map fun b => minimalWordAt s.wordlist b).flatten, status := 0x00 }) ∧
    exec (.encode 0b11) s = .next { s with out := [], status := 0x01 }) ∧
  (∀ (wl : Wordlist) (i : Byte), wl.wf = true →
    0x20 ∉ (wordAt wl i).chars ∧ 0x2D ∉ (wordAt wl i).chars) ∧
  joinWords 0x20 ((crcBytes []).map fun b => (wordAt defaultWordlist b).chars) =
    [0x61, 0x62, 0x6C, 0x65, 0x20, 0x61, 0x62, 0x6C, 0x65, 0x20, 0x61, 0x62, 0x6C, 0x65, 0x20, 0x61,
      0x62, 0x6C, 0x65] ∧
  joinWords 0x2D ((crcBytes []).map fun b => (wordAt defaultWordlist b).chars) =
    [0x61, 0x62, 0x6C, 0x65, 0x2D, 0x61, 0x62, 0x6C, 0x65, 0x2D, 0x61, 0x62, 0x6C, 0x65, 0x2D, 0x61,
      0x62, 0x6C, 0x65] ∧
  ((crcBytes []).map fun b => minimalWordAt defaultWordlist b).flatten =
    [0x61, 0x65, 0x61, 0x65, 0x61, 0x65, 0x61, 0x65] ∧
  joinWords 0x20 (([0x00] ++ crcBytes [0x00]).map fun b => (wordAt defaultWordlist b).chars) =
    [0x61, 0x62, 0x6C, 0x65, 0x20, 0x74, 0x69, 0x65, 0x64, 0x20, 0x61, 0x6C, 0x73, 0x6F, 0x20, 0x77,
      0x65, 0x62, 0x73, 0x20, 0x6C, 0x75, 0x6E, 0x67]

/-- R161: `join`. A buffer has at least four words. One word stands alone; between two joined runs of words there is one separator; so in
a joined text of 4-character words the k-th word stands at 5k and a separator at 5k+4 between two. -/
def Obligations.JoinedWords : Prop :=
  (∀ u : List Byte, 4 ≤ (u ++ crcBytes u).length) ∧
  ∀ c : Byte,
    (∀ w : List Byte, joinWords c [w] = w) ∧
    (∀ u v : List (List Byte), u ≠ [] → v ≠ [] →
      joinWords c (u ++ v) = joinWords c u ++ [c] ++ joinWords c v) ∧
    ∀ words : List (List Byte), words ≠ [] → (∀ w ∈ words, w.length = 4) →
      (joinWords c words).length = 5 * words.length - 1 ∧
      ∀ (k : Nat) (w : List Byte), words[k]? = some w →
        slice (joinWords c words) (5 * k) (5 * k + 4) = w ∧
        (k + 1 < words.length → (joinWords c words)[5 * k + 4]? = some c)

/-- R162: the minimal form, position by position. -/
def Obligations.MinimalPositions : Prop :=
  ∀ s t : State, exec (.encode 0b10) s = .next t →
    t.out.length = 2 * (s.inBuf.length + 4) ∧
    ∀ (k : Nat) (b : Byte), (s.inBuf ++ crcBytes s.inBuf)[k]? = some b →
      t.out[2 * k]? = some (wordAt s.wordlist b).c0 ∧
      t.out[2 * k + 1]? = some (wordAt s.wordlist b).c3

/-- The output length of ENCODE (R163, where the character count of the full styles is the spec's own
inference). -/
def Obligations.EncodeLength : Prop :=
  ∀ (s t : State) (style : BitVec 2) (st : Style), styleDecode style = some st →
    exec (.encode style) s = .next t →
    t.out.length =
      if fullWords st then 5 * s.inBuf.length + 19 else 2 * s.inBuf.length + 8

/-- Every character that ENCODE writes is a lowercase letter or the separator of its style. The spec's
own inference in spec/43_encoder.md (R164). -/
def Obligations.EncodeCharacters : Prop :=
  ∀ (s t : State) (style : BitVec 2) (st : Style), s.wordlist.wf = true →
    styleDecode style = some st → exec (.encode style) s = .next t →
    ∀ c ∈ t.out, (0x61 ≤ c.toNat ∧ c.toNat ≤ 0x7A) ∨ sep st = some c

/-- The three outputs of one payload: the uri text is the standard text with every space turned into
a hyphen, and the minimal text is the edge letters of its words. The spec's own inference in
spec/43_encoder.md (R165). -/
def Obligations.EncodeStylesAgree : Prop :=
  ∀ s std uri min : State, s.wordlist.wf = true →
    exec (.encode 0b00) s = .next std → exec (.encode 0b01) s = .next uri →
    exec (.encode 0b10) s = .next min →
    uri.out = std.out.map (fun c => if c = 0x20 then 0x2D else c) ∧
    min.out = ((splitOn 0x20 std.out).map fun w => [charAt w 0, charAt w 3]).flatten

/-- No word of a well-formed WORDLIST holds a separator, so splitting the text of a buffer recovers
exactly the words that were joined. The spec's own inference in spec/45_style_multiplexer.md (R205). -/
def Obligations.SplitRecoversWords : Prop :=
  ∀ (wl : Wordlist) (st : Style) (c : Byte) (buf : List Byte), wl.wf = true → sep st = some c →
    (∀ i : Byte, c ∉ (wordAt wl i).chars) ∧
    (buf ≠ [] → splitOn c (renderText wl st buf) = buf.map fun b => (wordAt wl b).chars)

/-! ## Decoder -/

/-- R180: the token parser of the full-word styles. Without a separator the text is one token, so the
empty text gives one empty token; each separator ends a token, so s separators give s+1 tokens, and
a leading, trailing or doubled one gives an empty token, which fails its length check. -/
def Obligations.SplitAtSeparators : Prop :=
  ∀ (c : Byte) (t u : List Byte),
    (c ∉ t → splitOn c t = [t]) ∧
    splitOn c (t ++ c :: u) = splitOn c t ++ splitOn c u ∧
    (splitOn c t).length = t.count c + 1 ∧
    (∀ w ∈ splitOn c t, c ∉ w) ∧ joinWords c (splitOn c t) = t ∧
    ∀ (fold : Bool) (wl : Wordlist) (table : RevIdx),
      decodeToken fold wl table 4 [] = .error .invalidWordLength

/-- R181: the token parser of the minimal style. Chunk k is `t[2k .. min(2k+2, len(t))]`, whatever its
characters; and a chunk of one character fails its length check. -/
def Obligations.ChunksOfTwo : Prop :=
  (∀ t : List Byte, (chunks2 t).length = (t.length + 1) / 2 ∧
    ∀ k, k < (t.length + 1) / 2 →
      (chunks2 t)[k]? = some (slice t (2 * k) (min (2 * k + 2) t.length))) ∧
  ∀ (x : Byte) (fold : Bool) (wl : Wordlist) (table : RevIdx),
    decodeToken fold wl table 2 [x] = .error .invalidWordLength

/-- R186, R188, R183 and R185: DECODE_WORD with a valid style. The length is checked first; a token
whose edge letters are no word's raises InvalidWord; a 4-letter token whose folded middle letters are
not the word's raises InvalidMiddleLetters; any other gives the byte. -/
def Obligations.DecodeWordCommand : Prop :=
  ∀ (s : State) (style : BitVec 2) (st : Style), styleDecode style = some st →
    s.wordlist.wf = true → CacheOk s → fits s.cfg.bufCap 1 = true →
    let t := s.inBuf
    let len := tokenLen st
    let edges :=
      [edge s.cfg.caseFoldEdges (charAt t 0), edge s.cfg.caseFoldEdges (charAt t (len - 1))]
    let error := fun code : Byte =>
      exec (.decodeWord style) s = .next { afterBuild s with out := [], status := code }
    (t.length ≠ len → error 0x02) ∧
    (t.length = len → (∀ i : Byte, minimalWordAt s.wordlist i ≠ edges) → error 0x03) ∧
    ∀ i : Byte, t.length = len → minimalWordAt s.wordlist i = edges →
      let w := wordAt s.wordlist i
      (len = 4 ∧ (lower (charAt t 1) ≠ w.c1 ∨ lower (charAt t 2) ≠ w.c2) → error 0x04) ∧
      (¬ (len = 4 ∧ (lower (charAt t 1) ≠ w.c1 ∨ lower (charAt t 2) ≠ w.c2)) →
        exec (.decodeWord style) s = .next { afterBuild s with out := [i], status := 0x00 })

/-- R183 with CASE_FOLD_EDGES = false: a token of the right length with an edge character outside
0x61 to 0x7A raises InvalidWord, in DECODE_WORD of every valid style. -/
def Obligations.EdgeOutsideLowercase : Prop :=
  ∀ (s : State) (style : BitVec 2) (st : Style), styleDecode style = some st →
    s.wordlist.wf = true → CacheOk s → s.cfg.caseFoldEdges = false →
    s.inBuf.length = tokenLen st →
    (isLowerLetter (charAt s.inBuf 0) = false ∨
      isLowerLetter (charAt s.inBuf (tokenLen st - 1)) = false) →
    exec (.decodeWord style) s = .next { afterBuild s with out := [], status := 0x03 }

/-- R191 and R189: DECODE with a valid style. The first token in text order that fails gives the error;
if all decode, a buffer of fewer than 5 bytes, and then a trailer that is not the checksum of the
body, is the error; otherwise the body is the result. -/
def Obligations.DecodeOrderOfErrors : Prop :=
  ∀ (s : State) (style : BitVec 2) (st : Style), styleDecode style = some st → CacheOk s →
    let one := decodeToken s.cfg.caseFoldEdges s.wordlist (revTable s.wordlist) (tokenLen st)
    let toks := tokens st s.inBuf
    let error := fun code : Byte =>
      exec (.decode style) s = .next { afterBuild s with out := [], status := code }
    (∀ (pre post : List (List Byte)) (t : List Byte) (e : ErrorKind), toks = pre ++ t :: post →
      (∀ u ∈ pre, ∃ v, one u = .ok v) → one t = .error e → error (statusWord (errorCode e))) ∧
    ∀ buf : List Byte, List.Forall₂ (fun t v => one t = .ok v) toks buf →
      let body := buf.take (buf.length - 4)
      let trailer := buf.drop (buf.length - 4)
      (buf.length < 5 → error 0x05) ∧
      (5 ≤ buf.length → crcBytes body ≠ trailer → error 0x06) ∧
      (5 ≤ buf.length → crcBytes body = trailer → fits s.cfg.bufCap body.length = true →
        exec (.decode style) s = .next { afterBuild s with out := body, status := 0x00 })

/-- DECODE of the text of a payload with its checksum gives the payload, in every style, for a payload
of at least one byte (R190, the encoder's text being that of R160). -/
def Obligations.DecodeCompletes : Prop :=
  ∀ (s : State) (style : BitVec 2) (st : Style) (b : List Byte), styleDecode style = some st →
    s.wordlist.wf = true → CacheOk s → b ≠ [] → fits s.cfg.bufCap b.length = true →
    s.inBuf = renderText s.wordlist st (b ++ crcBytes b) →
    exec (.decode style) s = .next { afterBuild s with out := b, status := 0x00 }

/-- Round trip: DECODE of what ENCODE wrote gives the payload back, in every style, for every
well-formed WORDLIST and both settings of CASE_FOLD_EDGES; the empty payload gives
InvalidDecodedLength. The spec's own inference in spec/44_decoder.md section 4 (R193). -/
def Obligations.RoundTrip : Prop :=
  ∀ (s : State) (style : BitVec 2) (st : Style), styleDecode style = some st →
    s.wordlist.wf = true → CacheOk s →
    fits s.cfg.bufCap (5 * s.inBuf.length + 19) = true →
    ∃ t u, exec (.encode style) s = .next t ∧
      exec (.decode style) { t with inBuf := t.out } = .next u ∧
      if s.inBuf = [] then u.out = [] ∧ u.status = 0x05
      else u.out = s.inBuf ∧ u.status = 0x00

/-- DECODE accepts nothing else: a text it accepts is, with its capitals folded, the very text ENCODE
writes for the result, in every style (R180 to R191; the acceptance side of spec/44_decoder.md). -/
def Obligations.AcceptedTextIsEncoding : Prop :=
  ∀ (s t : State) (style : BitVec 2) (st : Style), styleDecode style = some st →
    s.wordlist.wf = true → CacheOk s → exec (.decode style) s = .next t → t.status = 0x00 →
    t.out ≠ [] ∧ s.inBuf.map lower = renderText s.wordlist st (t.out ++ crcBytes t.out)

/-- Under the default WORDLIST, one edge letter of one word of an encoded text replaced by a different
lowercase letter gives InvalidWord or InvalidMiddleLetters. The spec's own inference in
spec/44_decoder.md section 4 (R194 (a)). -/
def Obligations.CorruptedEdgeLetter : Prop :=
  ∀ (s : State) (style : BitVec 2) (st : Style) (c : Byte) (b : List Byte) (k : Nat) (i x : Byte),
    styleDecode style = some st → sep st = some c → s.wordlist = defaultWordlist →
    s.cfg.caseFoldEdges = false → CacheOk s → (b ++ crcBytes b)[k]? = some i →
    isLowerLetter x = true →
    let w := wordAt s.wordlist i
    let words := (b ++ crcBytes b).map fun v => (wordAt s.wordlist v).chars
    let bad := fun w' : Byteword =>
      s.inBuf = joinWords c (words.set k w'.chars) →
      exec (.decode style) s = .next { afterBuild s with out := [], status := 0x03 } ∨
      exec (.decode style) s = .next { afterBuild s with out := [], status := 0x04 }
    (x ≠ w.c0 → bad { w with c0 := x }) ∧ (x ≠ w.c3 → bad { w with c3 := x })

/-- One letter of one word of an encoded text replaced by another code, under any well-formed WORDLIST.
At an edge, a code outside 0x61 to 0x7A gives InvalidWord; in the middle, a code whose fold is not
the letter gives InvalidMiddleLetters, and one whose fold is the letter is accepted. The spec's own
inference in spec/44_decoder.md section 4 (R194 (b) and (c)). Where the code is the separator itself the
token is cut, and the result is InvalidWordLength by R180 and R188 (log entry 10). -/
def Obligations.CorruptedCharacter : Prop :=
  ∀ (s : State) (style : BitVec 2) (st : Style) (c : Byte) (b : List Byte) (k : Nat) (i x : Byte),
    styleDecode style = some st → sep st = some c → s.wordlist.wf = true →
    s.cfg.caseFoldEdges = false → CacheOk s → (b ++ crcBytes b)[k]? = some i →
    let w := wordAt s.wordlist i
    let words := (b ++ crcBytes b).map fun v => (wordAt s.wordlist v).chars
    let gives := fun (w' : Byteword) (code : Byte) =>
      s.inBuf = joinWords c (words.set k w'.chars) →
      exec (.decode style) s = .next { afterBuild s with out := [], status := code }
    (x ≠ c → isLowerLetter x = false → gives { w with c0 := x } 0x03 ∧ gives { w with c3 := x } 0x03) ∧
    (x ≠ c → lower x ≠ w.c1 → gives { w with c1 := x } 0x04) ∧
    (x ≠ c → lower x ≠ w.c2 → gives { w with c2 := x } 0x04) ∧
    (x = c → gives { w with c0 := x } 0x02 ∧ gives { w with c1 := x } 0x02 ∧
      gives { w with c2 := x } 0x02 ∧ gives { w with c3 := x } 0x02) ∧
    (b ≠ [] → fits s.cfg.bufCap b.length = true →
      ∀ w' : Byteword, w'.c0 = w.c0 → lower w'.c1 = w.c1 → lower w'.c2 = w.c2 → w'.c3 = w.c3 →
        s.inBuf = joinWords c (words.set k w'.chars) →
        exec (.decode style) s = .next { afterBuild s with out := b, status := 0x00 })

/-- One token of an encoded text replaced by another valid token of the same style, so that one byte of
the buffer changes, gives ChecksumMismatch, whether the byte is in the body or in the trailer, in
every style. The spec's own inference in spec/44_decoder.md section 4 (R194 (d)); the payload has at
least one byte, since R189 checks the length first. -/
def Obligations.CorruptedByteDetected : Prop :=
  ∀ (s : State) (style : BitVec 2) (st : Style) (b : List Byte) (k : Nat) (v v' : Byte),
    styleDecode style = some st → s.wordlist.wf = true → CacheOk s → b ≠ [] →
    (b ++ crcBytes b)[k]? = some v → v' ≠ v →
    s.inBuf = renderText s.wordlist st ((b ++ crcBytes b).set k v') →
    exec (.decode style) s = .next { afterBuild s with out := [], status := 0x06 }
end

