-- ==== Sys2Proof/Laws/State.lean ====
section
/-! SUPPORT. One lemma per field of State for each update of a whole state, all by definition. -/

namespace Sys2Proof.Laws

open Sys2Proof.Machine

@[simp] theorem raiseError_cmd (e : ErrorKind) (s : State) : (raiseError e s).cmd = s.cmd := rfl
@[simp] theorem raiseError_status (e : ErrorKind) (s : State) :
    (raiseError e s).status = statusWord (errorCode e) := rfl
@[simp] theorem raiseError_inBuf (e : ErrorKind) (s : State) :
    (raiseError e s).inBuf = s.inBuf := rfl
@[simp] theorem raiseError_out (e : ErrorKind) (s : State) : (raiseError e s).out = [] := rfl
@[simp] theorem raiseError_wordlist (e : ErrorKind) (s : State) :
    (raiseError e s).wordlist = s.wordlist := rfl
@[simp] theorem raiseError_revidx (e : ErrorKind) (s : State) :
    (raiseError e s).revidx = s.revidx := rfl
@[simp] theorem raiseError_built (e : ErrorKind) (s : State) :
    (raiseError e s).built = s.built := rfl
@[simp] theorem raiseError_cfg (e : ErrorKind) (s : State) : (raiseError e s).cfg = s.cfg := rfl
@[simp] theorem raiseError_host (e : ErrorKind) (s : State) : (raiseError e s).host = s.host := rfl
@[simp] theorem raiseError_reply (e : ErrorKind) (s : State) :
    (raiseError e s).reply = s.reply := rfl
@[simp] theorem raiseError_draws (e : ErrorKind) (s : State) :
    (raiseError e s).draws = s.draws := rfl

@[simp] theorem finishOk_cmd (r : List Byte) (s : State) : (finishOk r s).cmd = s.cmd := rfl
@[simp] theorem finishOk_status (r : List Byte) (s : State) :
    (finishOk r s).status = statusWord okCode := rfl
@[simp] theorem finishOk_inBuf (r : List Byte) (s : State) : (finishOk r s).inBuf = s.inBuf := rfl
@[simp] theorem finishOk_out (r : List Byte) (s : State) : (finishOk r s).out = r := rfl
@[simp] theorem finishOk_wordlist (r : List Byte) (s : State) :
    (finishOk r s).wordlist = s.wordlist := rfl
@[simp] theorem finishOk_revidx (r : List Byte) (s : State) :
    (finishOk r s).revidx = s.revidx := rfl
@[simp] theorem finishOk_built (r : List Byte) (s : State) : (finishOk r s).built = s.built := rfl
@[simp] theorem finishOk_cfg (r : List Byte) (s : State) : (finishOk r s).cfg = s.cfg := rfl
@[simp] theorem finishOk_host (r : List Byte) (s : State) : (finishOk r s).host = s.host := rfl
@[simp] theorem finishOk_reply (r : List Byte) (s : State) : (finishOk r s).reply = s.reply := rfl
@[simp] theorem finishOk_draws (r : List Byte) (s : State) : (finishOk r s).draws = s.draws := rfl

@[simp] theorem ensureBuilt_cmd (s : State) : (ensureBuilt s).cmd = s.cmd := rfl
@[simp] theorem ensureBuilt_status (s : State) : (ensureBuilt s).status = s.status := rfl
@[simp] theorem ensureBuilt_inBuf (s : State) : (ensureBuilt s).inBuf = s.inBuf := rfl
@[simp] theorem ensureBuilt_out (s : State) : (ensureBuilt s).out = s.out := rfl
@[simp] theorem ensureBuilt_wordlist (s : State) : (ensureBuilt s).wordlist = s.wordlist := rfl
@[simp] theorem ensureBuilt_revidx (s : State) :
    (ensureBuilt s).revidx = if s.built then s.revidx else revTable s.wordlist := rfl
@[simp] theorem ensureBuilt_built (s : State) : (ensureBuilt s).built = true := rfl
@[simp] theorem ensureBuilt_cfg (s : State) : (ensureBuilt s).cfg = s.cfg := rfl
@[simp] theorem ensureBuilt_host (s : State) : (ensureBuilt s).host = s.host := rfl
@[simp] theorem ensureBuilt_reply (s : State) : (ensureBuilt s).reply = s.reply := rfl
@[simp] theorem ensureBuilt_draws (s : State) : (ensureBuilt s).draws = s.draws := rfl

@[simp] theorem afterBuild_cmd (s : State) : (afterBuild s).cmd = s.cmd := rfl
@[simp] theorem afterBuild_status (s : State) : (afterBuild s).status = s.status := rfl
@[simp] theorem afterBuild_inBuf (s : State) : (afterBuild s).inBuf = s.inBuf := rfl
@[simp] theorem afterBuild_out (s : State) : (afterBuild s).out = s.out := rfl
@[simp] theorem afterBuild_wordlist (s : State) : (afterBuild s).wordlist = s.wordlist := rfl
@[simp] theorem afterBuild_revidx (s : State) : (afterBuild s).revidx = revTable s.wordlist := rfl
@[simp] theorem afterBuild_built (s : State) : (afterBuild s).built = true := rfl
@[simp] theorem afterBuild_cfg (s : State) : (afterBuild s).cfg = s.cfg := rfl
@[simp] theorem afterBuild_host (s : State) : (afterBuild s).host = s.host := rfl
@[simp] theorem afterBuild_reply (s : State) : (afterBuild s).reply = s.reply := rfl
@[simp] theorem afterBuild_draws (s : State) : (afterBuild s).draws = s.draws := rfl

@[simp] theorem resetBlock_cmd (s : State) : (resetBlock s).cmd = 0x00 := rfl
@[simp] theorem resetBlock_status (s : State) : (resetBlock s).status = 0x00 := rfl
@[simp] theorem resetBlock_inBuf (s : State) : (resetBlock s).inBuf = [] := rfl
@[simp] theorem resetBlock_out (s : State) : (resetBlock s).out = [] := rfl
@[simp] theorem resetBlock_wordlist (s : State) : (resetBlock s).wordlist = s.wordlist := rfl
@[simp] theorem resetBlock_revidx (s : State) : (resetBlock s).revidx = revidxAtReset := rfl
@[simp] theorem resetBlock_built (s : State) : (resetBlock s).built = false := rfl
@[simp] theorem resetBlock_cfg (s : State) : (resetBlock s).cfg = s.cfg := rfl
@[simp] theorem resetBlock_host (s : State) : (resetBlock s).host = s.host := rfl
@[simp] theorem resetBlock_reply (s : State) : (resetBlock s).reply = s.reply := rfl
@[simp] theorem resetBlock_draws (s : State) : (resetBlock s).draws = s.draws := rfl

@[simp] theorem answer_cmd (v : HostValue) (s : State) : (answer v s).cmd = s.cmd := rfl
@[simp] theorem answer_status (v : HostValue) (s : State) : (answer v s).status = s.status := rfl
@[simp] theorem answer_inBuf (v : HostValue) (s : State) : (answer v s).inBuf = s.inBuf := rfl
@[simp] theorem answer_out (v : HostValue) (s : State) : (answer v s).out = s.out := rfl
@[simp] theorem answer_wordlist (v : HostValue) (s : State) :
    (answer v s).wordlist = s.wordlist := rfl
@[simp] theorem answer_revidx (v : HostValue) (s : State) : (answer v s).revidx = s.revidx := rfl
@[simp] theorem answer_built (v : HostValue) (s : State) : (answer v s).built = s.built := rfl
@[simp] theorem answer_cfg (v : HostValue) (s : State) : (answer v s).cfg = s.cfg := rfl
@[simp] theorem answer_host (v : HostValue) (s : State) : (answer v s).host = s.host := rfl
@[simp] theorem answer_reply (v : HostValue) (s : State) : (answer v s).reply = some v := rfl
@[simp] theorem answer_draws (v : HostValue) (s : State) : (answer v s).draws = s.draws := rfl

@[simp] theorem withFetchWord_host (s : State) (n w : Nat) :
    (s.withFetchWord n w).host = .writeCmd (BitVec.ofNat 8 w) :: s.host := rfl

end Sys2Proof.Laws
end

