-- ==== Sys2Proof/Laws/Ops.lean ====
section
/-! SUPPORT. What each shared operation can do, once: the provers cite these instead of unfolding. -/

namespace Sys2Proof.Laws

open Sys2Proof.Machine

/-! ## Capacity and buffers -/

@[simp] theorem fits_none (n : Nat) : fits none n = true := rfl

@[simp] theorem fits_zero (cap : Option Nat) : fits cap 0 = true := by cases cap <;> simp [fits]

theorem fits_mono {cap : Option Nat} {m n : Nat} (h : m ≤ n) (hn : fits cap n = true) :
    fits cap m = true := by
  cases cap with
  | none => rfl
  | some c => simp [fits] at *; omega

/-- The addresses of a buffer are 0, 1, …, so they rise strictly. -/
theorem cells_rise (m : Memory) : (m.cells.map Prod.fst).Pairwise (· < ·) := by
  have : m.cells.map Prod.fst = List.range m.length := by
    simp [Memory.cells, List.map_map, Function.comp_def, List.zipIdx_map_snd, List.range_eq_range']
  rw [this]
  exact List.pairwise_lt_range

/-- A buffer is in canonical form exactly when it is within the capacity. -/
theorem memory_wf_iff (cap : Option Nat) (m : Memory) :
    Memory.wf cap m = true ↔ fits cap m.length = true := by
  simp [Memory.wf, cells_rise]

/-! ## Completing and failing -/

/-- `complete` answers a next state exactly when the result fits, and then it is that of success. -/
theorem complete_next_iff {r : List Byte} {s t : State} :
    complete r s = .next t ↔ fits s.cfg.bufCap r.length = true ∧ t = finishOk r s := by
  unfold complete
  split
  · exact ⟨fun h => ⟨‹_›, (Host.Outcome.next.inj h).symm⟩, fun h => h.2 ▸ rfl⟩
  · exact ⟨fun h => (by cases h), fun h => absurd h.1 ‹_›⟩

/-- `complete` on a result that fits. -/
theorem complete_of_fits {r : List Byte} {s : State} (h : fits s.cfg.bufCap r.length = true) :
    complete r s = .next (finishOk r s) := complete_next_iff.2 ⟨h, rfl⟩

/-- `complete` on a result that does not fit. -/
theorem complete_of_not_fits {r : List Byte} {s : State} (h : fits s.cfg.bufCap r.length ≠ true) :
    complete r s = .refused .resultExceedsCapacity := if_neg h

@[simp] theorem finish_ok (r : List Byte) (s : State) : finish (.ok r) s = complete r s := rfl

@[simp] theorem finish_error (e : ErrorKind) (s : State) :
    finish (.error e) s = .next (raiseError e s) := rfl

/-- All that `finish` can answer as a next state: success with a result that fits, or an error. -/
theorem finish_next_cases {r : Except ErrorKind (List Byte)} {s t : State}
    (h : finish r s = .next t) :
    (∃ out, r = .ok out ∧ fits s.cfg.bufCap out.length = true ∧ t = finishOk out s) ∨
      ∃ e, r = .error e ∧ t = raiseError e s := by
  cases r with
  | ok out => exact .inl ⟨out, rfl, complete_next_iff.1 h⟩
  | error e => simp at h; exact .inr ⟨e, rfl, h.symm⟩

/-- A legal status is not OK when an error was raised. -/
theorem statusWord_errorCode_ne (e : ErrorKind) : statusWord (errorCode e) ≠ 0x00 := by
  cases e <;> decide

@[simp] theorem statusWord_okCode : statusWord okCode = 0x00 := by decide

/-- The codes of errors are 1 to 8. -/
theorem statusWord_errorCode_le (e : ErrorKind) : (statusWord (errorCode e)).toNat ≤ 8 := by
  cases e <;> decide

/-! ## The reverse index -/

/-- Under the cache rule the build leaves the derived table, built before or not. -/
theorem ensureBuilt_of_cacheOk {s : State} (h : CacheOk s) : ensureBuilt s = afterBuild s := by
  unfold ensureBuilt afterBuild
  by_cases hb : s.built = true
  · simp [hb, h hb]
  · simp [hb]

/-- The build keeps the cache rule and makes it hold with BUILT = 1. -/
theorem cacheOk_ensureBuilt {s : State} (h : CacheOk s) : CacheOk (ensureBuilt s) := by
  intro _
  by_cases hb : s.built = true
  · simp [hb, h hb]
  · simp [hb]

/-- A second build changes nothing. -/
@[simp] theorem ensureBuilt_ensureBuilt (s : State) :
    ensureBuilt (ensureBuilt s) = ensureBuilt s := rfl

theorem map_range_getElem? {α : Type} (f : Nat → α) {n c : Nat} (h : c < n) :
    ((List.range n).map f).toArray[c]? = some (f c) := by simp [h]

/-- The cells of the derived table, in order. -/
theorem revTable_toArray (wl : Wordlist) :
    (revTable wl).toArray = ((List.range 676).map (revCell wl)).toArray := by
  with_unfolding_all rfl

theorem revTable_toList (wl : Wordlist) :
    (revTable wl).toList = (List.range 676).map (revCell wl) := by
  rw [← Vector.toList_toArray, revTable_toArray]

/-- A cell of the derived table. -/
theorem revTable_getElem? (wl : Wordlist) {c : Nat} (h : c < 676) :
    (revTable wl)[c]? = some (revCell wl c) := by
  rw [← Vector.getElem?_toArray, revTable_toArray]
  exact map_range_getElem? _ h

/-- All that a look-up can answer. -/
theorem lookup_cases (table : RevIdx) (x y : Int) :
    (lookup table x y = .absentRange ∧ ¬ (0 ≤ x ∧ x < 26 ∧ 0 ≤ y ∧ y < 26)) ∨
    ((0 ≤ x ∧ x < 26 ∧ 0 ≤ y ∧ y < 26) ∧
      ((lookup table x y = .absentCell ∧ table[(cellIndex x y).toNat]?.join = none) ∨
        ∃ v, lookup table x y = .value v ∧ table[(cellIndex x y).toNat]?.join = some v)) := by
  unfold lookup
  split
  · right
    refine ⟨‹_›, ?_⟩
    split
    · exact .inr ⟨_, rfl, ‹_›⟩
    · exact .inl ⟨rfl, ‹_›⟩
  · exact .inl ⟨rfl, ‹_›⟩

/-! ## Styles and tokens -/

/-- The style multiplexer read backwards: the one STYLE value of each style. -/
theorem styleDecode_eq_some {style : BitVec 2} {st : Style} (h : styleDecode style = some st) :
    (style = 0 ∧ st = .standard) ∨ (style = 1 ∧ st = .uri) ∨ (style = 2 ∧ st = .minimal) := by
  revert h st
  revert style
  decide

theorem styleDecode_eq_none {style : BitVec 2} : styleDecode style = none ↔ style = 3 := by
  revert style
  decide

/-- All that `decodeToken` can answer, in the order of its checks. -/
theorem decodeToken_cases (fold : Bool) (wl : Wordlist) (table : RevIdx) (len : Nat)
    (t : List Byte) :
    let found := lookup table (coord (edge fold (charAt t 0)))
      (coord (edge fold (charAt t (len - 1))))
    let differs := fun v => len = 4 ∧
      (lower (charAt t 1) ≠ (wordAt wl v).c1 ∨ lower (charAt t 2) ≠ (wordAt wl v).c2)
    (t.length ≠ len ∧ decodeToken fold wl table len t = .error .invalidWordLength) ∨
    (t.length = len ∧ (found = .absentRange ∨ found = .absentCell) ∧
      decodeToken fold wl table len t = .error .invalidWord) ∨
    ∃ v, t.length = len ∧ found = .value v ∧
      ((differs v ∧ decodeToken fold wl table len t = .error .invalidMiddleLetters) ∨
        (¬ differs v ∧ decodeToken fold wl table len t = .ok v)) := by
  intro found differs
  unfold decodeToken
  by_cases hl : t.length = len
  · right
    simp only [hl, ne_eq, not_true_eq_false, if_false]
    generalize hf : lookup table _ _ = f
    cases f with
    | absentRange => exact .inl ⟨trivial, .inl hf, rfl⟩
    | absentCell => exact .inl ⟨trivial, .inr hf, rfl⟩
    | value v =>
      refine .inr ⟨v, trivial, hf, ?_⟩
      by_cases hd : differs v
      · exact .inl ⟨hd, if_pos hd⟩
      · exact .inr ⟨hd, if_neg hd⟩
  · exact .inl ⟨hl, if_pos hl⟩

@[simp] theorem decodeTokens_nil (fold : Bool) (wl : Wordlist) (table : RevIdx) (len : Nat) :
    decodeTokens fold wl table len [] = .ok [] := rfl

theorem decodeTokens_cons_error {fold : Bool} {wl : Wordlist} {table : RevIdx} {len : Nat}
    {t : List Byte} {ts : List (List Byte)} {e : ErrorKind}
    (h : decodeToken fold wl table len t = .error e) :
    decodeTokens fold wl table len (t :: ts) = .error e := by simp [decodeTokens, h]

theorem decodeTokens_cons_ok {fold : Bool} {wl : Wordlist} {table : RevIdx} {len : Nat}
    {t : List Byte} {ts : List (List Byte)} {v : Byte}
    (h : decodeToken fold wl table len t = .ok v) :
    decodeTokens fold wl table len (t :: ts) =
      (decodeTokens fold wl table len ts).map (v :: ·) := by simp [decodeTokens, h]

/-- All that `checkBuffer` can answer, in the order of its checks. -/
theorem checkBuffer_cases (buf : List Byte) :
    let body := slice buf 0 (buf.length - 4)
    let trailer := slice buf (buf.length - 4) buf.length
    (buf.length < 5 ∧ checkBuffer buf = .error .invalidDecodedLength) ∨
    (5 ≤ buf.length ∧ crcBytes body ≠ trailer ∧ checkBuffer buf = .error .checksumMismatch) ∨
    (5 ≤ buf.length ∧ crcBytes body = trailer ∧ checkBuffer buf = .ok body) := by
  intro body trailer
  unfold checkBuffer
  by_cases hl : buf.length < 5
  · exact .inl ⟨hl, if_pos hl⟩
  · right
    rw [if_neg hl]
    by_cases hc : crcBytes body = trailer
    · exact .inr ⟨by omega, hc, if_neg (not_not.2 hc)⟩
    · exact .inl ⟨by omega, hc, if_pos hc⟩

@[simp] theorem crcBytes_length (u : List Byte) : (crcBytes u).length = 4 := rfl

@[simp] theorem chars_length (w : Byteword) : w.chars.length = 4 := rfl

@[simp] theorem minimalWordAt_length (wl : Wordlist) (i : Byte) :
    (minimalWordAt wl i).length = 2 := rfl

/-! ## Well-formed WORDLIST -/

/-- What a well-formed WORDLIST gives, entry by entry (R100 (b) and (d)). -/
theorem wordlist_wf_entries {wl : Wordlist} (h : wl.wf = true) :
    (∀ i : Byte, ∀ c ∈ (wordAt wl i).chars, isLowerLetter c = true) ∧
      ∀ i j : Byte, (wordAt wl i).edges = (wordAt wl j).edges → i = j := by
  simp only [Wordlist.wf, Bool.and_eq_true, Wordlist.lowercase, Wordlist.distinctEdges,
    List.all_eq_true, decide_eq_true_eq] at h
  obtain ⟨⟨hl, -⟩, hd⟩ := h
  refine ⟨fun i => hl _ (by simp [wordAt]), fun i j hij => ?_⟩
  have hi : i.toNat < (wl.toList.map Byteword.edges).length := by simpa using i.isLt
  have hj : j.toNat < (wl.toList.map Byteword.edges).length := by simpa using j.isLt
  have := (hd.getElem_inj_iff (hi := hi) (hj := hj)).1 (by simpa [wordAt] using hij)
  exact BitVec.eq_of_toNat_eq this

/-- The words of a WORDLIST, written out as raw entries, are read as that WORDLIST. -/
theorem parseWordlist_chars (wl : Wordlist) :
    parseWordlist (wl.toList.map Byteword.chars) = some wl := by
  have h : (wl.toList.map Byteword.chars).filterMap parseEntry = wl.toList := by
    rw [List.filterMap_map, show parseEntry ∘ Byteword.chars = some from rfl, List.filterMap_some]
  have hw : wl.toList.length = 256 := by simp
  unfold parseWordlist
  simp only [h, List.length_map, hw, and_self, dif_pos]
  exact congrArg some (Vector.toList_inj.1 (by simp))

/-- All that an instantiation can answer, in the order of its checks (R100, R102). -/
theorem instantiate_cases (cfg : Config) (entries : List (List Byte)) :
    (parseWordlist entries = none ∧ instantiate cfg entries = .refused .illFormedWordlist) ∨
    ∃ wl, parseWordlist entries = some wl ∧
      ((wl.wf = false ∧ instantiate cfg entries = .refused .illFormedWordlist) ∨
        (wl.wf = true ∧ wl.agreesWithSource = false ∧
          instantiate cfg entries = .refused .wordlistDisagreesWithSource) ∨
        (wl.wf = true ∧ wl.agreesWithSource = true ∧
          instantiate cfg entries = .next { State.reset with wordlist := wl, cfg := cfg })) := by
  unfold instantiate
  cases h : parseWordlist entries with
  | none => exact .inl ⟨rfl, rfl⟩
  | some wl =>
    refine .inr ⟨wl, rfl, ?_⟩
    cases hw : wl.wf with
    | false => exact .inl ⟨rfl, by simp [hw]⟩
    | true =>
      cases ha : wl.agreesWithSource with
      | false => exact .inr (.inl ⟨rfl, rfl, by simp [hw, ha]⟩)
      | true => exact .inr (.inr ⟨rfl, rfl, by simp [hw, ha]⟩)

/-- All that the operand check of a look-up can answer (R105, R106). -/
theorem oneByteOperand_cases (s : State) :
    (∃ i, s.inBuf = [i] ∧ oneByteOperand s = .ok i) ∨
      (s.inBuf.length ≠ 1 ∧ oneByteOperand s = .error .invalidOperandLength) := by
  unfold oneByteOperand
  split
  · exact .inl ⟨_, ‹_›, rfl⟩
  · rename_i h
    refine .inr ⟨fun hl => ?_, rfl⟩
    obtain ⟨i, hi⟩ := List.length_eq_one_iff.1 hl
    exact h i hi

end Sys2Proof.Laws
end

