-- ==== Sys2Proof/Laws/Memory.lean ====
section
/-! SUPPORT. Every operation that writes a buffer keeps it in its one canonical form (`Memory.wf`), and
the buffers have it after reset. -/

namespace Sys2Proof.Laws

open Sys2Proof.Machine

/-- Both buffers of a state are in canonical form. -/
def BuffersWf (s : State) : Prop :=
  Memory.wf s.cfg.bufCap s.inBuf = true ∧ Memory.wf s.cfg.bufCap s.out = true

theorem memory_wf_nil (cap : Option Nat) : Memory.wf cap [] = true :=
  (memory_wf_iff cap []).2 (fits_zero cap)

/-- Reading one address of a buffer: the byte of the pair that lists it. -/
theorem mem_cells_iff {m : Memory} {a : Nat} {b : Byte} : (a, b) ∈ m.cells ↔ m[a]? = some b := by
  simp [Memory.cells, List.mem_zipIdx_iff_getElem?]

theorem reset_buffersWf : BuffersWf State.reset := ⟨memory_wf_nil _, memory_wf_nil _⟩

theorem raiseError_buffersWf (e : ErrorKind) {s : State} (h : BuffersWf s) :
    BuffersWf (raiseError e s) := ⟨h.1, memory_wf_nil _⟩

theorem complete_buffersWf {r : List Byte} {s t : State} (h : BuffersWf s)
    (ht : complete r s = .next t) : BuffersWf t := by
  obtain ⟨hr, rfl⟩ := complete_next_iff.1 ht
  exact ⟨h.1, (memory_wf_iff _ _).2 hr⟩

theorem finish_buffersWf {r : Except ErrorKind (List Byte)} {s t : State} (h : BuffersWf s)
    (ht : finish r s = .next t) : BuffersWf t := by
  cases r with
  | ok out => exact complete_buffersWf h ht
  | error e => cases ht; exact raiseError_buffersWf e h

theorem resetBlock_buffersWf (s : State) : BuffersWf (resetBlock s) :=
  ⟨memory_wf_nil _, memory_wf_nil _⟩

theorem writeIn_buffersWf {u : List Byte} {s t : State} (h : BuffersWf s)
    (ht : writeIn u s = .next t) : BuffersWf t := by
  unfold writeIn at ht
  split at ht
  · cases ht; exact ⟨(memory_wf_iff _ _).2 ‹_›, h.2⟩
  · cases ht

theorem writeInByte_buffersWf {k : Nat} {b : Byte} {s t : State} (h : BuffersWf s)
    (ht : writeInByte k b s = .next t) : BuffersWf t := by
  unfold writeInByte at ht
  split at ht
  · cases ht
    exact ⟨(memory_wf_iff _ _).2 (by simpa using (memory_wf_iff _ _).1 h.1), h.2⟩
  · cases ht

theorem writeInLen_buffersWf {n : Nat} {s t : State} (h : BuffersWf s)
    (ht : writeInLen n s = .next t) : BuffersWf t := by
  unfold writeInLen at ht
  split at ht
  · rename_i hn
    cases ht
    refine ⟨(memory_wf_iff _ _).2 ?_, h.2⟩
    have hlen : min n s.inBuf.length + (n - s.inBuf.length) = n := by omega
    simpa [hlen] using hn
  · cases ht

/-- A byte of IN after a byte write: the byte written at its address, the byte before elsewhere. -/
theorem writeInByte_read {k : Nat} {b : Byte} {s t : State} (ht : writeInByte k b s = .next t)
    (a : Nat) : t.inBuf[a]? = if a = k then some b else s.inBuf[a]? := by
  unfold writeInByte at ht
  split at ht
  · rename_i hk
    cases ht
    by_cases ha : a = k
    · subst ha; simp [hk]
    · simp [ha, List.getElem?_set_ne (Ne.symm ha)]
  · cases ht

end Sys2Proof.Laws
end

