-- ==== Sys2Proof/Laws/PerInstr.lean ====
section
/-! SUPPORT. The per-instruction family `Fields`: the three fields of R70 in the CMD value of each
command. -/

namespace Sys2Proof.Laws

/-- The CMD value of a command holds RSV = 00, its STYLE and its OP in their fields (R70, R71), and the
decoder reads the command back from it (R74). -/
def Fields.Statement (i : Instr) : Prop :=
  rsvField (encodeCmd i) = 0 ∧ styleField (encodeCmd i) = i.style ∧
    opField (encodeCmd i) = opOf i ∧ decodeCmd (encodeCmd i) = .ok i

theorem Fields.crc32 (style : BitVec 2) : Fields.Statement (.crc32 style) := by
  revert style; unfold Fields.Statement; decide

theorem Fields.appendChecksum (style : BitVec 2) : Fields.Statement (.appendChecksum style) := by
  revert style; unfold Fields.Statement; decide

theorem Fields.wordAt (style : BitVec 2) : Fields.Statement (.wordAt style) := by
  revert style; unfold Fields.Statement; decide

theorem Fields.minimalWordAt (style : BitVec 2) : Fields.Statement (.minimalWordAt style) := by
  revert style; unfold Fields.Statement; decide

theorem Fields.encode (style : BitVec 2) : Fields.Statement (.encode style) := by
  revert style; unfold Fields.Statement; decide

theorem Fields.decodeWord (style : BitVec 2) : Fields.Statement (.decodeWord style) := by
  revert style; unfold Fields.Statement; decide

theorem Fields.decode (style : BitVec 2) : Fields.Statement (.decode style) := by
  revert style; unfold Fields.Statement; decide

end Sys2Proof.Laws
end

