-- ==== Sys2Proof/Laws/Step.lean ====
section
/-! SUPPORT. What a step, a host transaction and a command can do. -/

namespace Sys2Proof.Laws

open Sys2Proof.Machine

/-! ## The step -/

theorem step_idle {s : State} (h : s.host = []) : step s = .next s := by simp [step, h]

theorem step_transact {s : State} {op : HostOp} {rest : List HostOp} (h : s.host = op :: rest) :
    step s = transact op { s with host := rest } := by simp [step, h]

/-- All that a step can do: nothing, or the host's next transaction. -/
theorem step_next_cases {s t : State} (h : step s = .next t) :
    (s.host = [] ∧ t = s) ∨
      ∃ op rest, s.host = op :: rest ∧ transact op { s with host := rest } = .next t := by
  cases hh : s.host with
  | nil => rw [step_idle hh] at h; exact .inl ⟨rfl, by simpa using h.symm⟩
  | cons op rest => rw [step_transact hh] at h; exact .inr ⟨op, rest, rfl, h⟩

/-! Runs: one step at a time. -/

theorem run_zero (s : State) : Sys2Proof.core.run 0 s = .next s := rfl

theorem run_of_next {s t : State} (n : Nat) (h : step s = .next t) :
    Sys2Proof.core.run (n + 1) s = Sys2Proof.core.run n t := by
  have h' : Sys2Proof.core.step s = .next t := h
  simp only [Host.Core.run, h']

theorem run_of_fault {s : State} {r : Fault} (n : Nat) (h : step s = .fault r) :
    Sys2Proof.core.run (n + 1) s = .fault r := by
  have h' : Sys2Proof.core.step s = .fault r := h
  simp only [Host.Core.run, h']

theorem run_of_refused {s : State} {r : Refusal} (n : Nat) (h : step s = .refused r) :
    Sys2Proof.core.run (n + 1) s = .refused r := by
  have h' : Sys2Proof.core.step s = .refused r := h
  simp only [Host.Core.run, h']

theorem issue_ok {c : Byte} {i : Instr} {s : State} (h : decodeCmd c = .ok i) :
    issue c s = exec i { s with cmd := c } := by simp [issue, h]

theorem issue_error {c : Byte} {e : DecodeError} {s : State} (h : decodeCmd c = .error e) :
    issue c s = .next (raiseError .illegalCommand { s with cmd := c }) := by simp [issue, h]

/-- All that a host read can answer. -/
theorem readHost_next_cases {r : HostRead} {s t : State} (h : readHost r s = .next t) :
    ∃ v d, t = { s with reply := some v, draws := d } := by
  cases r with
  | cmd | status | inLen | outLen => cases h; exact ⟨_, _, rfl⟩
  | inByte k =>
    simp only [readHost] at h
    split at h
    · cases h; exact ⟨_, _, rfl⟩
    · cases h
  | outByte k =>
    simp only [readHost, readOutByte] at h
    split at h <;> (cases h; exact ⟨_, _, rfl⟩)

/-- All that a transaction can do, one case for each kind of transaction. -/
theorem transact_next_cases {op : HostOp} {s t : State} (h : transact op s = .next t) :
    (∃ u, op = .writeIn u ∧ fits s.cfg.bufCap u.length = true ∧ t = { s with inBuf := u }) ∨
    (∃ k b, op = .writeInByte k b ∧ k < s.inBuf.length ∧
      t = { s with inBuf := s.inBuf.set k b }) ∨
    (∃ n, op = .writeInLen n ∧ fits s.cfg.bufCap n = true ∧ ∃ u d, u.length = n ∧
      t = { s with inBuf := u, draws := d }) ∨
    (∃ c i, op = .writeCmd c ∧ decodeCmd c = .ok i ∧ exec i { s with cmd := c } = .next t) ∨
    (∃ c e, op = .writeCmd c ∧ decodeCmd c = .error e ∧
      t = raiseError .illegalCommand { s with cmd := c }) ∨
    (∃ b, op = .writeStatus b ∧ t = s) ∨
    (∃ r v d, op = .read r ∧ t = { s with reply := some v, draws := d }) ∨
    (op = .reset ∧ t = resetBlock s) := by
  cases op with
  | writeIn u =>
    simp only [transact, writeIn] at h
    split at h
    · cases h; exact .inl ⟨u, rfl, ‹_›, rfl⟩
    · cases h
  | writeInByte k b =>
    simp only [transact, writeInByte] at h
    split at h
    · cases h; exact .inr (.inl ⟨k, b, rfl, ‹_›, rfl⟩)
    · cases h
  | writeInLen n =>
    simp only [transact, writeInLen] at h
    split at h
    · cases h
      exact .inr (.inr (.inl ⟨n, rfl, ‹_›, _, _, by simp; omega, rfl⟩))
    · cases h
  | writeCmd c =>
    simp only [transact] at h
    cases hd : decodeCmd c with
    | ok i =>
      rw [issue_ok hd] at h
      exact .inr (.inr (.inr (.inl ⟨c, i, rfl, hd, h⟩)))
    | error e =>
      rw [issue_error hd] at h; cases h
      exact .inr (.inr (.inr (.inr (.inl ⟨c, e, rfl, hd, rfl⟩))))
  | writeStatus b => cases h; exact .inr (.inr (.inr (.inr (.inr (.inl ⟨b, rfl, rfl⟩)))))
  | read r =>
    obtain ⟨v, d, ht⟩ := readHost_next_cases h
    exact .inr (.inr (.inr (.inr (.inr (.inr (.inl ⟨r, v, d, rfl, ht⟩))))))
  | reset => cases h; exact .inr (.inr (.inr (.inr (.inr (.inr (.inr ⟨rfl, rfl⟩))))))

/-! ## The commands: the arms of exec, and each one as `finish` of a result -/

@[simp] theorem exec_crc32 (st : BitVec 2) (s : State) :
    exec (.crc32 st) s = complete (crcBytes s.inBuf) s := rfl

@[simp] theorem exec_appendChecksum (st : BitVec 2) (s : State) :
    exec (.appendChecksum st) s = complete (appendChecksum s.inBuf) s := rfl

@[simp] theorem exec_wordAt (st : BitVec 2) (s : State) :
    exec (.wordAt st) s =
      finish ((oneByteOperand s).map fun i => (wordAt s.wordlist i).chars) s := rfl

@[simp] theorem exec_minimalWordAt (st : BitVec 2) (s : State) :
    exec (.minimalWordAt st) s =
      finish ((oneByteOperand s).map fun i => minimalWordAt s.wordlist i) s := rfl

theorem exec_encode (style : BitVec 2) (s : State) :
    exec (.encode style) s = execEncode style s := rfl

theorem exec_decodeWord (style : BitVec 2) (s : State) :
    exec (.decodeWord style) s = execDecodeWord style s := rfl

theorem exec_decode (style : BitVec 2) (s : State) :
    exec (.decode style) s = execDecode style s := rfl

theorem execEncode_some {style : BitVec 2} {st : Style} (h : styleDecode style = some st)
    (s : State) : execEncode style s =
      complete (renderText s.wordlist st (appendChecksum s.inBuf)) s := by
  simp [execEncode, h]

theorem execDecodeWord_some {style : BitVec 2} {st : Style} (h : styleDecode style = some st)
    (s : State) : execDecodeWord style s =
      finish ((decodeToken s.cfg.caseFoldEdges s.wordlist (ensureBuilt s).revidx (tokenLen st)
        s.inBuf).map ([·])) (ensureBuilt s) := by
  simp [execDecodeWord, h]

theorem execDecode_some {style : BitVec 2} {st : Style} (h : styleDecode style = some st)
    (s : State) : execDecode style s = finish (decodeText st (ensureBuilt s)) (ensureBuilt s) := by
  simp [execDecode, h]

/-- The state a command ends on but for OUT and STATUS: the index is built by a decoder command whose
style is valid (R122), and nothing else is touched. -/
def commandBase : Instr → State → State
  | .decodeWord st, s | .decode st, s => if (styleDecode st).isSome then ensureBuilt s else s
  | _, s => s

/-- The result of a command: its OUT, or its error. -/
def commandResult : Instr → State → Except ErrorKind (List Byte)
  | .crc32 _, s => .ok (crcBytes s.inBuf)
  | .appendChecksum _, s => .ok (appendChecksum s.inBuf)
  | .wordAt _, s => (oneByteOperand s).map fun i => (wordAt s.wordlist i).chars
  | .minimalWordAt _, s => (oneByteOperand s).map fun i => minimalWordAt s.wordlist i
  | .encode style, s =>
    match styleDecode style with
    | none => .error .invalidStyle
    | some st => .ok (renderText s.wordlist st (appendChecksum s.inBuf))
  | .decodeWord style, s =>
    match styleDecode style with
    | none => .error .invalidStyle
    | some st => (decodeToken s.cfg.caseFoldEdges s.wordlist (ensureBuilt s).revidx (tokenLen st)
        s.inBuf).map ([·])
  | .decode style, s =>
    match styleDecode style with
    | none => .error .invalidStyle
    | some st => decodeText st (ensureBuilt s)

/-- Every command is `finish` of its result: all that `exec` can do, for all commands at once. -/
theorem exec_eq_finish (i : Instr) (s : State) :
    exec i s = finish (commandResult i s) (commandBase i s) := by
  cases i with
  | crc32 _ | appendChecksum _ | wordAt _ | minimalWordAt _ => rfl
  | encode style =>
    simp only [exec_encode, execEncode, commandResult, commandBase]
    split <;> simp_all
  | decodeWord style =>
    simp only [exec_decodeWord, execDecodeWord, commandResult, commandBase]
    split <;> simp_all
  | decode style =>
    simp only [exec_decode, execDecode, commandResult, commandBase]
    split <;> simp_all

/-- The state under OUT and STATUS is the state before the command, or that state with the index built,
and the second only for a decoder command whose style is valid. -/
theorem commandBase_cases (i : Instr) (s : State) :
    commandBase i s = s ∨
      ∃ st, (i = .decodeWord st ∨ i = .decode st) ∧ styleDecode st ≠ none ∧
        commandBase i s = ensureBuilt s := by
  cases i with
  | decodeWord st =>
    cases h : styleDecode st with
    | none => exact .inl (by simp [commandBase, h])
    | some x => exact .inr ⟨st, .inl rfl, by simp [h], by simp [commandBase, h]⟩
  | decode st =>
    cases h : styleDecode st with
    | none => exact .inl (by simp [commandBase, h])
    | some x => exact .inr ⟨st, .inr rfl, by simp [h], by simp [commandBase, h]⟩
  | _ => exact .inl rfl

end Sys2Proof.Laws
end

