-- ==== Sys2Proof/Laws/Wordlist.lean ====
section
/-! SUPPORT. The default WORDLIST is well-formed: what the spec says its author's check script found
(spec/40_wordlist.md R101), here computed by the kernel. -/

namespace Sys2Proof.Laws

open Sys2Proof.Machine

/-- The edge letters of a word as one number. -/
def edgeCode (w : Byteword) : Nat := w.c0.toNat * 256 + w.c3.toNat

/-- R100 (b) for the default table. -/
theorem defaultWordlist_lowercase : defaultWordlist.lowercase = true := by decide +kernel

theorem defaultWordlist_edgeCode_nodup : (defaultWordlist.toList.map edgeCode).Nodup := by
  decide +kernel

/-- R100 (d) for the default table. -/
theorem defaultWordlist_distinctEdges : defaultWordlist.distinctEdges = true := by
  have h : edgeCode = (fun p : Byte × Byte => p.1.toNat * 256 + p.2.toNat) ∘ Byteword.edges := rfl
  have hd := defaultWordlist_edgeCode_nodup
  rw [h, ← List.map_map] at hd
  exact decide_eq_true (List.Nodup.of_map _ hd)

/-- R100 (c) for the default table. -/
theorem defaultWordlist_distinctWords : defaultWordlist.distinctWords = true :=
  decide_eq_true (List.Nodup.of_map _ defaultWordlist_edgeCode_nodup)

/-- R100 (b), (c) and (d) for the default table. -/
theorem defaultWordlist_wf : defaultWordlist.wf = true := by
  simp [Wordlist.wf, defaultWordlist_lowercase, defaultWordlist_distinctWords,
    defaultWordlist_distinctEdges]

/-- R102 for the default table. -/
theorem defaultWordlist_agreesWithSource : defaultWordlist.agreesWithSource = true := by
  decide +kernel

end Sys2Proof.Laws
end

