-- ==== Sys2Proof/Tests/Slice0.lean ====
section
/-! SUPPORT. Tests. Expected values come from the spec (the file and rule stand at each test). A theorem
`witness_X…` shows that the hypotheses of `Obligations.X` can be met together. -/

namespace Sys2Proof.Tests

open Sys2Proof.Machine Sys2Proof.Laws

/-- The codes of a text (R9). -/
def text (l : List Char) : List Byte := l.map ascii

/-- The machine after reset with IN written. -/
def holding (u : List Byte) : State := { State.reset with inBuf := u }

/-- The machine after reset with IN written and a write to CMD to come. -/
def issuing (c : Byte) (u : List Byte) : State := { holding u with host := [.writeCmd c] }

/-- STATUS and OUT after an outcome that is a next state. -/
def answerOf (o : Host.Outcome State Fault Refusal) : Option (Byte × List Byte) :=
  match o with
  | .next t => some (t.status, t.out)
  | _ => none

/-- STATUS and OUT after the command `c` on IN = `u`, from reset. -/
def answerTo (c : Byte) (u : List Byte) : Option (Byte × List Byte) := answerOf (step (issuing c u))

def isRefused (r : Refusal) (o : Host.Outcome State Fault Refusal) : Bool :=
  match o with
  | .refused q => decide (q = r)
  | _ => false

/-! ## Decoding: words written bit by bit from spec/30_encoding.md R70 and R71 -/

theorem test_decode_crc32 : decodeCmd 0b00_00_0001 = .ok (.crc32 0b00) := by rfl
theorem test_decode_crc32_style : decodeCmd 0b00_11_0001 = .ok (.crc32 0b11) := by rfl
theorem test_decode_appendChecksum : decodeCmd 0b00_01_0010 = .ok (.appendChecksum 0b01) := by rfl
theorem test_decode_wordAt : decodeCmd 0b00_10_0011 = .ok (.wordAt 0b10) := by rfl
theorem test_decode_minimalWordAt : decodeCmd 0b00_00_0100 = .ok (.minimalWordAt 0b00) := by rfl
theorem test_decode_encode : decodeCmd 0b00_01_0101 = .ok (.encode 0b01) := by rfl
theorem test_decode_decodeWord : decodeCmd 0b00_10_0110 = .ok (.decodeWord 0b10) := by rfl
theorem test_decode_decode : decodeCmd 0b00_11_0111 = .ok (.decode 0b11) := by rfl
theorem test_decode_op0 : decodeCmd 0b00_00_0000 = .error .unassignedOp := by rfl
theorem test_decode_op8 : decodeCmd 0b00_00_1000 = .error .unassignedOp := by rfl
theorem test_decode_opF : decodeCmd 0b00_11_1111 = .error .unassignedOp := by rfl
/-- RSV is checked before OP (R74). -/
theorem test_decode_rsv_first : decodeCmd 0b01_00_0000 = .error .reservedBits := by rfl
theorem test_decode_empty : decode [] = .error .noByte := by rfl
theorem test_decode_rest : decode [0x05, 0x41] = .ok (.encode 0, [0x41]) := by rfl
/-- The match values of spec/opcode_table.json. -/
theorem test_encode_table : [Instr.crc32 0, .appendChecksum 0, .wordAt 0, .minimalWordAt 0, .encode 0,
    .decodeWord 0, .decode 0].map encodeCmd = [0x01, 0x02, 0x03, 0x04, 0x05, 0x06, 0x07] := by rfl

/-! ## Well-formedness: an ill-formed WORDLIST for each check (spec/40_wordlist.md R100, R102) -/

/-- The raw entries of the default WORDLIST. -/
def entries : List (List Byte) := defaultWordlist.toList.map Byteword.chars

theorem test_wf_accepts_default : ∃ s, instantiate Config.spec entries = .next s := by
  have h : parseWordlist entries = some defaultWordlist := parseWordlist_chars _
  rcases instantiate_cases Config.spec entries with ⟨h', -⟩ | ⟨wl, h', hw⟩
  · rw [h] at h'; cases h'
  · rw [h] at h'; cases h'
    rcases hw with ⟨hw, -⟩ | ⟨-, hw, -⟩ | ⟨-, -, hw⟩
    · rw [defaultWordlist_wf] at hw; cases hw
    · rw [defaultWordlist_agreesWithSource] at hw; cases hw
    · exact ⟨_, hw⟩

/-- R100 (a): 255 entries, and 257. -/
theorem test_wf_count : parseWordlist (entries.drop 1) = none ∧
    parseWordlist (text ['z', 'z', 'z', 'z'] :: entries) = none := by decide +kernel

/-- R100 (b): an entry of three characters, and one of five. -/
theorem test_wf_length : parseWordlist (entries.set 0 (text ['a', 'b', 'e'])) = none ∧
    parseWordlist (entries.set 255 (text ['z', 'o', 'o', 'm', 's'])) = none := by decide +kernel

/-- R100 (b): a capital, and the codes next to the lowercase letters. -/
theorem test_wf_lowercase :
    Wordlist.lowercase (defaultWordlist.set 0 (byteword 'A' 'b' 'l' 'e')) = false ∧
    Wordlist.lowercase (defaultWordlist.set 255 ⟨ascii 'z', ascii 'o', 0x7B, ascii 'm'⟩) = false ∧
    isLowerLetter 0x60 = false ∧ isLowerLetter 0x7B = false := by decide +kernel

/-- R100 (c): one word twice. -/
theorem test_wf_distinctWords :
    Wordlist.distinctWords (defaultWordlist.set 1 (byteword 'a' 'b' 'l' 'e')) = false :=
  decide_eq_false fun h => absurd (h.sublist (List.take_sublist 2 _)) (by decide +kernel)

/-- R100 (d): two words with the edge letters a and e. -/
theorem test_wf_distinctEdges :
    Wordlist.distinctEdges (defaultWordlist.set 1 (byteword 'a' 'c' 'r' 'e')) = false :=
  decide_eq_false fun h => absurd (h.sublist (List.take_sublist 2 _)) (by decide +kernel)

/-- R102: a table whose first word is not the source's. -/
theorem test_wf_source :
    Wordlist.agreesWithSource (defaultWordlist.set 0 (byteword 'z' 'z' 'z' 'z')) = false := by
  decide +kernel

theorem test_refuses_illFormed :
    isRefused .illFormedWordlist (instantiate Config.spec (entries.drop 1)) = true ∧
    isRefused .illFormedWordlist
      (instantiate Config.spec (entries.set 0 (text ['A', 'b', 'l', 'e']))) = true := by
  decide +kernel

/-! ## One or two vectors for each command (spec/95_test_vectors.md) -/

/-- Section 2.1. -/
theorem test_crc32 : answerTo 0x01 [0x00] = some (0x00, [0xD2, 0x02, 0xEF, 0x8D]) := by decide +kernel

/-- Section 2.1, with a STYLE that CRC32 ignores. -/
theorem test_crc32_check_value :
    answerTo 0x21 [0x31, 0x32, 0x33, 0x34, 0x35, 0x36, 0x37, 0x38, 0x39] =
      some (0x00, [0xCB, 0xF4, 0x39, 0x26]) := by decide +kernel

/-- Section 2.1. -/
theorem test_appendChecksum : answerTo 0x02 [0x01, 0x02, 0x03, 0x04, 0x05] =
    some (0x00, [0x01, 0x02, 0x03, 0x04, 0x05, 0x47, 0x0B, 0x99, 0xF4]) := by decide +kernel

/-- Section 2.2. -/
theorem test_wordAt : answerTo 0x03 [0xD2] = some (0x00, [0x74, 0x69, 0x65, 0x64]) := by decide +kernel

/-- Section 2.2. -/
theorem test_wordAt_two_bytes : answerTo 0x03 [0x00, 0x01] = some (0x08, []) := by decide +kernel

/-- Section 2.2. -/
theorem test_minimalWordAt : answerTo 0x04 [0x8D] = some (0x00, text ['l', 'g']) := by decide +kernel

/-- Section 2.2. -/
theorem test_minimalWordAt_no_byte : answerTo 0x04 [] = some (0x08, []) := by decide +kernel

/-- S1 of section 1. -/
theorem test_encode_standard : answerTo 0x05 [0x00] =
    some (0x00, [0x61, 0x62, 0x6C, 0x65, 0x20, 0x74, 0x69, 0x65, 0x64, 0x20, 0x61, 0x6C, 0x73, 0x6F,
      0x20, 0x77, 0x65, 0x62, 0x73, 0x20, 0x6C, 0x75, 0x6E, 0x67]) := by decide +kernel

/-- Section 3, P2. -/
theorem test_encode_minimal : answerTo 0x25 [0xDE, 0xAD, 0xBE, 0xEF] =
    some (0x00, [0x75, 0x65, 0x70, 0x6D, 0x72, 0x6E, 0x77, 0x73, 0x6B, 0x65, 0x6E, 0x73, 0x6F, 0x74,
      0x68, 0x74]) := by decide +kernel

/-- Section 2.4: the middle letters are folded, the edge letters are not. -/
theorem test_decodeWord_case : answerTo 0x16 (text ['a', 'B', 'L', 'e']) = some (0x00, [0x00]) ∧
    answerTo 0x06 (text ['A', 'b', 'l', 'e']) = some (0x03, []) := by decide +kernel

/-- Section 2.4. -/
theorem test_decodeWord_errors : answerTo 0x06 (text ['a', 'b', 'x', 'e']) = some (0x04, []) ∧
    answerTo 0x06 (text ['z', 'z', 'z', 'z']) = some (0x03, []) ∧
    answerTo 0x26 (text ['a']) = some (0x02, []) ∧ answerTo 0x36 [] = some (0x01, []) := by
  decide +kernel

/-- Section 2.5: accepted, a changed body byte, and the empty text. -/
theorem test_decode_minimal :
    answerTo 0x27 (text ['u', 'e', 'p', 'm', 'r', 'n', 'w', 's', 'k', 'e', 'n', 's', 'o', 't', 'h', 't'])
      = some (0x00, [0xDE, 0xAD, 0xBE, 0xEF]) ∧
    answerTo 0x27 (text ['u', 'e', 'p', 'm', 'r', 'n', 'w', 'l', 'k', 'e', 'n', 's', 'o', 't', 'h', 't'])
      = some (0x06, []) ∧
    answerTo 0x27 [] = some (0x05, []) := by decide +kernel

/-- Section 2.5: S4, the empty text, and the first bad token. -/
theorem test_decode_standard :
    answerTo 0x07 (text ['a', 'b', 'l', 'e', ' ', 't', 'i', 'e', 'd', ' ', 'a', 'l', 's', 'o', ' ', 'w',
      'e', 'b', 's', ' ', 'l', 'u', 'c', 'k']) = some (0x06, []) ∧
    answerTo 0x07 [] = some (0x02, []) ∧
    answerTo 0x07 (text ['z', 'z', 'z', 'z', ' ', 'l', 'u', 'n']) = some (0x03, []) := by
  decide +kernel

/-! ## Witnesses: encoding and the host port -/

/-- A state with the given transactions to come. -/
def hosted (ops : List HostOp) (u : List Byte) : State := { holding u with host := ops }

/-- A state whose buffers hold at most `n` bytes. -/
def capped (n : Nat) (u : List Byte) : State :=
  { holding u with cfg := { Config.spec with bufCap := some n } }

theorem holding_cacheOk (u : List Byte) : CacheOk (holding u) :=
  fun h => nomatch (show false = true from h)

theorem holding_wf (u : List Byte) : (holding u).wordlist.wf = true := defaultWordlist_wf

/-- A command on the default machine ends in a next state. -/
theorem completes (i : Instr) (u : List Byte) : ∃ t, exec i (holding u) = .next t := by
  rw [exec_eq_finish]
  have hb : (commandBase i (holding u)).cfg.bufCap = none := by
    rcases commandBase_cases i (holding u) with h | ⟨_, _, _, h⟩ <;> rw [h] <;> rfl
  cases commandResult i (holding u) with
  | ok r => exact ⟨_, complete_of_fits (by rw [hb]; rfl)⟩
  | error e => exact ⟨_, rfl⟩

/-- The step that issues a legal command runs it. -/
theorem step_issuing {c : Byte} {i : Instr} (h : decodeCmd c = .ok i) (u : List Byte) :
    step (issuing c u) = exec i { holding u with cmd := c } := by
  rw [step_transact (op := .writeCmd c) (rest := []) rfl]; exact issue_ok h

/-- Such a step ends in a next state. -/
theorem step_completes {c : Byte} {i : Instr} (h : decodeCmd c = .ok i) (u : List Byte) :
    ∃ t, step (issuing c u) = .next t := by
  rw [step_issuing h, exec_eq_finish]
  have hb : (commandBase i { holding u with cmd := c }).cfg.bufCap = none := by
    rcases commandBase_cases i { holding u with cmd := c } with h | ⟨_, _, _, h⟩ <;> rw [h] <;> rfl
  cases commandResult i { holding u with cmd := c } with
  | ok r => exact ⟨_, complete_of_fits (by rw [hb]; rfl)⟩
  | error e => exact ⟨_, rfl⟩

theorem witness_DecodeEncodeAgree :
    (Instr.decode 0b11).wf = true ∧ decodeCmd 0x37 = .ok (.decode 0b11) := by decide

/-- The edges of the three reasons: OP = 0, OP = 8, OP = F, RSV = 01 and RSV = 11. -/
theorem witness_IllegalCommandRaises : ∀ c ∈ [(0x00 : Byte), 0x08, 0x3F, 0x41, 0xC7],
    (issuing c []).host = [.writeCmd c] ∧
      (rsvField c ≠ 0 ∨ opField c = 0 ∨ 8 ≤ (opField c).toNat) := by decide

/-- One value for each branch, and the three with STYLE = 11. -/
theorem witness_CommandDecodeOrder : (∀ c ∈ [(0x41 : Byte), 0x31, 0x02, 0x03, 0x04, 0x05, 0x06, 0x07,
    0x00, 0x08], (issuing c []).host = [.writeCmd c]) ∧
    ∀ c ∈ [(0x35 : Byte), 0x36, 0x37], (issuing c []).host = [.writeCmd c] ∧ rsvField c = 0 ∧
      styleField c = 0b11 ∧ (opField c = 0x5 ∨ opField c = 0x6 ∨ opField c = 0x7) := by decide

theorem witness_StepRunsDecodedCommand :
    (issuing 0x37 []).host = [.writeCmd 0x37] ∧ decodeCmd 0x37 = .ok (.decode 0b11) := by decide

theorem witness_HostWritesInThenCommand :
    let s := { capped 1 [] with host := [.writeIn [0x00], .writeCmd 0x03] }
    (s.host = [.writeIn [0x00], .writeCmd 0x03] ∧ decodeCmd 0x03 = .ok (.wordAt 0) ∧
      fits s.cfg.bufCap 1 = true) ∧ (holding []).host = [] := by decide

/-- The last byte of IN, and IN_LEN lowered to 0 and raised to the capacity. -/
theorem witness_HostWritesPartOfIn :
    ((hosted [.writeInByte 1 0xFF] [0x00, 0x01]).host = [.writeInByte 1 0xFF] ∧
      1 < (hosted [.writeInByte 1 0xFF] [0x00, 0x01]).inBuf.length) ∧
    ∀ n ∈ [0, 3], ({ capped 3 [0x00] with host := [.writeInLen n] } : State).host = [.writeInLen n] ∧
      fits ({ capped 3 [0x00] with host := [.writeInLen n] } : State).cfg.bufCap n = true := by decide

/-- The first address past IN, and one byte more than the capacity. -/
theorem witness_HostAccessStops :
    (hosted [.read (.inByte 1)] [0x00]).inBuf.length ≤ 1 ∧
    (hosted [.writeInByte 0 0xFF] []).inBuf.length ≤ 0 ∧
    fits (capped 1 []).cfg.bufCap [(0x00 : Byte), 0x01].length = false ∧
    fits (capped 1 []).cfg.bufCap 2 = false := by decide

theorem witness_HostReadsHaveNoSideEffect :
    ∃ t, step (hosted [.read .cmd] []) = .next t := ⟨_, rfl⟩

/-- The last byte of IN and of OUT, and the first index past OUT. -/
theorem witness_HostReadAnswers :
    (hosted [.read (.inByte 0)] [0x05]).inBuf[0]? = some 0x05 ∧
    ({ hosted [.read (.outByte 1)] [] with out := [0x01, 0x02] } : State).out[1]? = some 0x02 ∧
    ({ hosted [.read (.outByte 2)] [] with out := [0x01, 0x02] } : State).out.length ≤ 2 := by decide

/-- A host write of STATUS, an illegal command and a legal one. -/
theorem witness_StatusRegister :
    (hosted [.writeStatus 0xFF] []).host = [.writeStatus 0xFF] ∧
    (∃ t, step (issuing 0x40 []) = .next t) ∧ ∃ t, step (issuing 0x03 []) = .next t :=
  ⟨rfl, ⟨_, rfl⟩, step_completes (i := .wordAt 0) rfl _⟩

theorem witness_ResetValues : (hosted [.reset, .writeCmd 0x01] [0x00]).host = [.reset, .writeCmd 0x01] :=
  rfl

/-- A decoder command that writes every piece of state but IN, and a host write of IN. -/
theorem witness_AccessRights :
    (∃ t, step (issuing 0x26 (text ['z', 'm'])) = .next t ∧ t.cmd ≠ 0x00 ∧ t.out ≠ [] ∧
      t.built ≠ false) ∧
    ∃ t, step (hosted [.writeIn [0x01]] []) = .next t ∧ t.inBuf ≠ [] := by
  refine ⟨?_, _, rfl, by decide⟩
  have h : answerTo 0x26 (text ['z', 'm']) = some (0x00, [0xFF]) := by decide +kernel
  obtain ⟨t, ht⟩ := step_completes (c := 0x26) (i := .decodeWord 0b10) rfl (text ['z', 'm'])
  refine ⟨t, ht, ?_⟩
  unfold answerTo at h
  rw [ht] at h
  have hout : t.out = [0xFF] := by simp only [answerOf, Option.some.injEq, Prod.mk.injEq] at h; exact h.2
  have hx : exec (.decodeWord 0b10) { holding (text ['z', 'm']) with cmd := 0x26 } = .next t := ht
  rw [exec_decodeWord, execDecodeWord_some (st := .minimal) rfl] at hx
  rcases finish_next_cases hx with ⟨o, -, -, rfl⟩ | ⟨e, -, rfl⟩
  · exact ⟨show (0x26 : Byte) ≠ 0x00 by decide, by rw [hout]; decide,
      show (true : Bool) ≠ false by decide⟩
  · cases hout

/-! ## Witnesses: commands in general -/

theorem witness_StepKeepsInvariant :
    (issuing 0x06 [0x41]).Inv ∧ ∃ t, step (issuing 0x06 [0x41]) = .next t :=
  ⟨⟨defaultWordlist_wf, fun h => absurd h (by decide), by decide, fun _ => rfl, by decide, by decide⟩,
    step_completes rfl _⟩

/-- An illegal command, and a decoder command on a token of the wrong length. -/
theorem witness_ErrorEffect :
    (∃ t, step (issuing 0x00 []) = .next t ∧ t.status ≠ 0x00) ∧
    ∃ t, step (issuing 0x06 [0x41]) = .next t ∧ t.status ≠ 0x00 := by
  refine ⟨⟨_, rfl, by decide⟩, raiseError .invalidWordLength
    (ensureBuilt { holding [0x41] with cmd := 0x06 }), ?_, by decide⟩
  rw [step_issuing (i := .decodeWord 0) rfl, exec_decodeWord, execDecodeWord_some (st := .standard) rfl]; rfl

theorem witness_EveryCommandCompletes : (holding [0x41]).cfg.bufCap = none := rfl

/-- Two states that differ in CMD, OUT, the cache and the transactions that follow. -/
theorem witness_CommandIsFunctionOfCmdAndIn :
    let s := issuing 0x06 [0x41]
    let t := { afterBuild s with out := [0x01], cmd := 0x27, host := [.writeCmd 0x06, .reset] }
    s.host = [.writeCmd 0x06] ∧ t.host = [.writeCmd 0x06, .reset] ∧ s.inBuf = t.inBuf ∧
      s.wordlist = t.wordlist ∧ s.cfg = t.cfg ∧ CacheOk s ∧ CacheOk t :=
  ⟨rfl, rfl, rfl, rfl, rfl, fun h => absurd h (by decide), fun _ => rfl⟩

theorem witness_CacheNeverShows :
    let s := issuing 0x06 [0x41]
    SameButCache s (afterBuild s) ∧ CacheOk s ∧ CacheOk (afterBuild s) :=
  ⟨rfl, fun h => absurd h (by decide), fun _ => rfl⟩

/-- An illegal command, then a checksum. -/
theorem witness_RunOfPairsCompletes :
    let s := hosted (hostPairs [([0x41], 0x00), ([0x00], 0x01)]) []
    s.cfg.bufCap = none ∧ s.host = hostPairs [([0x41], 0x00), ([0x00], 0x01)] ∧
      [([0x41], 0x00), (([0x00] : List Byte), (0x01 : Byte))].getLast? = some ([0x00], 0x01) :=
  ⟨rfl, rfl, rfl⟩

theorem witness_RunShowsLastPairOnly :
    let s := hosted (hostPairs ([([0x41], 0x00)] ++ [([0x00], 0x01)])) []
    CacheOk s ∧ s.host = hostPairs ([([0x41], 0x00)] ++ [([0x00], 0x01)]) ∧
      ∃ t, Sys2Proof.core.run (2 * (1 + 1)) s = .next t := by
  intro s
  refine ⟨fun h => Bool.noConfusion (show false = true from h), rfl, ?_⟩
  exact ⟨_, (run_of_next 3 rfl).trans ((run_of_next 2 rfl).trans ((run_of_next 1 rfl).trans
    ((run_of_next 0 rfl).trans rfl)))⟩

theorem witness_BuildOfReverseIndex :
    (∃ t, exec (.decode 0) (holding []) = .next t) ∧ ∃ t, exec (.decode 3) (holding []) = .next t :=
  ⟨completes _ _, completes _ _⟩

theorem witness_CommandRepeated : ∃ t, exec (.decode 0) (holding []) = .next t := completes _ _

/-! ## Witnesses: checksum, WORDLIST and reverse index -/

theorem witness_Crc32Command : fits (capped 4 []).cfg.bufCap 4 = true := by decide

/-- Three strings of one length; two strings that differ in four consecutive bytes. -/
theorem witness_ChecksumDetectsBursts :
    ([0x00] : List Byte).length = ([0x01] : List Byte).length ∧
    ([0x00, 0x00, 0x00, 0x00] : List Byte).length = ([0x01, 0x00, 0x00, 0x80] : List Byte).length ∧
    ([0x00, 0x00, 0x00, 0x00] : List Byte).length ≤ 4 ∧
    ([0x00, 0x00, 0x00, 0x00] : List Byte) ≠ [0x01, 0x00, 0x00, 0x80] := by decide

theorem good_entries : GoodEntries entries := by
  have hn : (entries.map fun e => (e.head?, e.getLast?)).Nodup := by
    have h : entries.map (fun e => (e.head?, e.getLast?)) =
        (defaultWordlist.toList.map Byteword.edges).map fun p => (some p.1, some p.2) := by
      rw [entries, List.map_map, List.map_map]; rfl
    rw [h]
    refine List.Nodup.map ?_ (of_decide_eq_true defaultWordlist_distinctEdges)
    intro p q hpq
    simpa [Prod.ext_iff] using hpq
  refine ⟨by simp [entries], ?_, List.Nodup.of_map _ hn, hn⟩
  intro e he
  obtain ⟨w, hw, rfl⟩ := List.mem_map.1 he
  refine ⟨rfl, fun c hc => ?_⟩
  have hl := defaultWordlist_lowercase
  rw [Wordlist.lowercase, List.all_eq_true] at hl
  exact of_decide_eq_true (List.all_eq_true.1 (hl w hw) c hc)

/-- The entries in reverse order: R100 (a) to (d) hold, the five entries of R102 do not. -/
theorem good_reversed : GoodEntries entries.reverse := by
  obtain ⟨h1, h2, h3, h4⟩ := good_entries
  refine ⟨by simpa using h1, fun e he => h2 e (by simpa using he), List.nodup_reverse.2 h3, ?_⟩
  rw [List.map_reverse]
  exact List.nodup_reverse.2 h4

theorem witness_InstantiationOfWordlist :
    (GoodEntries entries ∧ SourceAgrees entries ∧ ∃ s, instantiate Config.spec entries = .next s) ∧
    ¬ GoodEntries (entries.drop 1) := by
  refine ⟨⟨good_entries, ?_, test_wf_accepts_default⟩, fun h => ?_⟩
  · unfold SourceAgrees; decide +kernel
  · have := h.1
    simp [entries] at this

/-- R107: a permuted table. -/
theorem witness_DisagreeingWordlistRefused :
    GoodEntries entries.reverse ∧ ¬ SourceAgrees entries.reverse := by
  refine ⟨good_reversed, ?_⟩
  unfold SourceAgrees; decide +kernel

theorem witness_SourceEntries : ∃ s, instantiate Config.spec entries = .next s := test_wf_accepts_default

theorem witness_ReverseIndexInvertsMinimalCode : defaultWordlist.wf = true := defaultWordlist_wf

/-- The first and the last cell, and the last word's cell (R126). -/
theorem witness_DerivedTable : defaultWordlist.wf = true ∧ 0 < 676 ∧ 675 < 676 ∧
    State.reset.wordlist = defaultWordlist ∧ State.reset.built = false ∧
    (coord (wordAt defaultWordlist 0xFF).c3) * 26 + coord (wordAt defaultWordlist 0xFF).c0 = 337 :=
  ⟨defaultWordlist_wf, by decide, by decide, rfl, rfl, by decide +kernel⟩

/-- The values next to the range; an ABSENT cell at its end and a byte at its start (R126); the codes next
to the letters. -/
theorem witness_LookupCases :
    ¬ (0 ≤ (26 : Int) ∧ (26 : Int) < 26 ∧ 0 ≤ (0 : Int) ∧ (0 : Int) < 26) ∧
    ¬ (0 ≤ (0 : Int) ∧ (0 : Int) < 26 ∧ 0 ≤ (-1 : Int) ∧ (-1 : Int) < 26) ∧
    (revTable defaultWordlist)[25 * 26 + 25]? = some none ∧
    (revTable defaultWordlist)[0 * 26 + 0]? = some (some 0x04) ∧
    lookup (revTable defaultWordlist) (coord (edge false (charAt [0x60, 0x61] 0)))
      (coord (edge false (charAt [0x60, 0x61] 1))) = .absentRange := by
  refine ⟨by decide, by decide, ?_, ?_, rfl⟩
  · rw [revTable_getElem? _ (by decide)]; decide +kernel
  · rw [revTable_getElem? _ (by decide)]; decide +kernel

theorem witness_WordAtCommand : (holding [0xFF]).inBuf = [0xFF] ∧
    fits (capped 4 [0xFF]).cfg.bufCap 4 = true ∧ (capped 4 [0xFF]).inBuf = [0xFF] ∧
    (holding []).inBuf.length ≠ 1 ∧ (holding [0x00, 0x01]).inBuf.length ≠ 1 := by decide

theorem witness_MinimalWordAtCommand :
    fits (capped 2 [0xFF]).cfg.bufCap 2 = true ∧ (capped 2 [0xFF]).inBuf = [0xFF] ∧
    (holding []).inBuf.length ≠ 1 ∧ (holding [0x00, 0x01]).inBuf.length ≠ 1 := by decide

theorem witness_InvalidStyleAndIgnoredStyle :
    ∃ t, exec (.encode 3) (holding []) = .next t ∧ t.status = 0x01 := ⟨_, rfl, by decide⟩

/-! ## Witnesses: encoder -/

/-- A capacity of exactly the length of the text. -/
theorem witness_EncodeCommand : defaultWordlist.wf = true ∧ fits (capped 24 [0x00]).cfg.bufCap (5 * 1 + 19) = true ∧
    fits (capped 8 []).cfg.bufCap (2 * 0 + 8) = true := ⟨defaultWordlist_wf, by decide, by decide⟩

theorem witness_JoinedWords :
    ([text ['a', 'b', 'l', 'e']] : List (List Byte)) ≠ [] ∧
    (∀ w ∈ [text ['a', 'b', 'l', 'e'], text ['a', 'c', 'i', 'd']], w.length = 4) ∧
    [text ['a', 'b', 'l', 'e'], text ['a', 'c', 'i', 'd']][1]? = some (text ['a', 'c', 'i', 'd']) ∧
    0 + 1 < [text ['a', 'b', 'l', 'e'], text ['a', 'c', 'i', 'd']].length := by decide

/-- The first and the last byte of the buffer. -/
theorem witness_MinimalPositions : (∃ t, exec (.encode 0b10) (holding [0x00]) = .next t) ∧
    ([0x00] ++ crcBytes [0x00])[0]? = some 0x00 ∧ ([0x00] ++ crcBytes [0x00])[4]? = some 0x8D :=
  ⟨completes _ _, by decide +kernel, by decide +kernel⟩

theorem witness_EncodeLength : styleDecode 0b01 = some .uri ∧
    ∃ t, exec (.encode 0b01) (holding []) = .next t := ⟨rfl, completes _ _⟩

theorem witness_EncodeCharacters : (holding [0x20]).wordlist.wf = true ∧ styleDecode 0 = some .standard ∧
    ∃ t, exec (.encode 0) (holding [0x20]) = .next t := ⟨holding_wf _, rfl, completes _ _⟩

theorem witness_EncodeStylesAgree : (holding []).wordlist.wf = true ∧
    (∃ t, exec (.encode 0b00) (holding []) = .next t) ∧
    (∃ t, exec (.encode 0b01) (holding []) = .next t) ∧
    ∃ t, exec (.encode 0b10) (holding []) = .next t :=
  ⟨holding_wf _, completes _ _, completes _ _, completes _ _⟩

theorem witness_SplitRecoversWords : defaultWordlist.wf = true ∧ sep .uri = some 0x2D ∧
    ([0x00] : List Byte) ≠ [] := ⟨defaultWordlist_wf, rfl, by decide⟩

/-! ## Witnesses: decoder -/

theorem witness_SplitAtSeparators : (0x20 : Byte) ∉ text ['a', 'b'] ∧ (0x20 : Byte) ∉ ([] : List Byte) := by
  decide

/-- The lone last character of an odd text. -/
theorem witness_ChunksOfTwo : 1 < ((text ['a', 'b', 'c']).length + 1) / 2 := by decide

/-- One token for each clause: the empty one, an absent cell, wrong middle letters, an accepted one of
each length. -/
theorem witness_DecodeWordCommand :
    (styleDecode 0 = some .standard ∧ styleDecode 2 = some .minimal ∧
      (∀ u, (holding u).wordlist.wf = true) ∧ (∀ u, CacheOk (holding u)) ∧
      fits (holding []).cfg.bufCap 1 = true) ∧
    ([] : List Byte).length ≠ tokenLen .standard ∧
    (∀ i : Byte, minimalWordAt defaultWordlist i ≠ [0x7A, 0x7A]) ∧
    minimalWordAt defaultWordlist 0x00 = [0x61, 0x65] ∧
    (tokenLen .standard = 4 ∧ lower (charAt (text ['a', 'b', 'x', 'e']) 2) ≠
      (wordAt defaultWordlist 0x00).c2) ∧
    lower (charAt (text ['a', 'B', 'L', 'e']) 1) = (wordAt defaultWordlist 0x00).c1 ∧
    lower (charAt (text ['a', 'B', 'L', 'e']) 2) = (wordAt defaultWordlist 0x00).c2 ∧
    minimalWordAt defaultWordlist 0xFF = [0x7A, 0x6D] :=
  ⟨⟨rfl, rfl, holding_wf, holding_cacheOk, rfl⟩, by decide, by decide +kernel, by decide +kernel,
    ⟨rfl, by decide +kernel⟩, by decide +kernel, by decide +kernel, by decide +kernel⟩

/-- The codes on both sides of the lowercase letters. -/
theorem witness_EdgeOutsideLowercase :
    styleDecode 2 = some .minimal ∧ (holding [0x60, 0x61]).wordlist.wf = true ∧
    CacheOk (holding [0x60, 0x61]) ∧ (holding [0x60, 0x61]).cfg.caseFoldEdges = false ∧
    (holding [0x60, 0x61]).inBuf.length = tokenLen .minimal ∧
    isLowerLetter (charAt [0x60, 0x61] 0) = false ∧
    isLowerLetter (charAt [0x61, 0x7B] (tokenLen .minimal - 1)) = false :=
  ⟨rfl, holding_wf _, holding_cacheOk _, rfl, rfl, by decide, by decide⟩

/-- The second of two tokens fails; four bytes; five bytes with a wrong and with the right trailer. -/
theorem witness_DecodeOrderOfErrors :
    let one := decodeToken false defaultWordlist (revTable defaultWordlist) 2
    styleDecode 2 = some .minimal ∧ CacheOk (holding (text ['a', 'e', 'z'])) ∧
    tokens .minimal (text ['a', 'e', 'z']) = [text ['a', 'e']] ++ text ['z'] :: [] ∧
    one (text ['a', 'e']) = .ok 0x00 ∧ one (text ['z']) = .error .invalidWordLength ∧
    List.Forall₂ (fun t v => one t = .ok v)
      (tokens .minimal (text ['a', 'e', 'a', 'e', 'a', 'e', 'a', 'e'])) [0x00, 0x00, 0x00, 0x00] ∧
    List.Forall₂ (fun t v => one t = .ok v)
      (tokens .minimal (text ['a', 'e', 'a', 'e', 'a', 'e', 'a', 'e', 'a', 'e']))
      [0x00, 0x00, 0x00, 0x00, 0x00] ∧
    crcBytes ([0x00, 0x00, 0x00, 0x00, 0x00].take 1) ≠ [0x00, 0x00, 0x00, 0x00, 0x00].drop 1 ∧
    crcBytes ([0x00, 0xD2, 0x02, 0xEF, 0x8D].take 1) = [0x00, 0xD2, 0x02, 0xEF, 0x8D].drop 1 := by
  have ae : decodeToken false defaultWordlist (revTable defaultWordlist) 2 [0x61, 0x65] = .ok 0x00 := by
    decide +kernel
  refine ⟨rfl, holding_cacheOk _, rfl, ae, rfl, ?_, ?_, by decide +kernel, by decide +kernel⟩
  · exact .cons ae (.cons ae (.cons ae (.cons ae .nil)))
  · exact .cons ae (.cons ae (.cons ae (.cons ae (.cons ae .nil))))

/-- The machine holding the text of a payload with its checksum. -/
def encoded (st : Style) (b : List Byte) : State :=
  holding (renderText defaultWordlist st (b ++ crcBytes b))

theorem witness_DecodeCompletes : styleDecode 2 = some .minimal ∧
    (encoded .minimal [0x00]).wordlist.wf = true ∧ CacheOk (encoded .minimal [0x00]) ∧
    ([0x00] : List Byte) ≠ [] ∧ fits (encoded .minimal [0x00]).cfg.bufCap 1 = true ∧
    (encoded .minimal [0x00]).inBuf =
      renderText (encoded .minimal [0x00]).wordlist .minimal ([0x00] ++ crcBytes [0x00]) :=
  ⟨rfl, holding_wf _, holding_cacheOk _, by decide, rfl, rfl⟩

/-- The empty payload and a payload of one byte, in buffers that hold just the text. -/
theorem witness_RoundTrip : styleDecode 0 = some .standard ∧
    ∀ u ∈ [([] : List Byte), [0xFF]], (capped (5 * u.length + 19) u).wordlist.wf = true ∧
      CacheOk (capped (5 * u.length + 19) u) ∧
      fits (capped (5 * u.length + 19) u).cfg.bufCap (5 * u.length + 19) = true :=
  ⟨rfl, fun u _ => ⟨defaultWordlist_wf, holding_cacheOk u, by simp [capped, fits]⟩⟩

/-- A text with a capital middle letter is accepted. -/
theorem witness_AcceptedTextIsEncoding :
    let u := text ['a', 'B', 'l', 'e', ' ', 't', 'i', 'e', 'd', ' ', 'a', 'l', 's', 'o', ' ', 'w', 'e',
      'b', 's', ' ', 'l', 'u', 'n', 'g']
    styleDecode 0 = some .standard ∧ (holding u).wordlist.wf = true ∧ CacheOk (holding u) ∧
      ∃ t, exec (.decode 0) (holding u) = .next t ∧ t.status = 0x00 := by
  intro u
  refine ⟨rfl, holding_wf _, holding_cacheOk _, ?_⟩
  have h : answerOf (exec (.decode 0) (holding u)) = some (0x00, [0x00]) := by decide +kernel
  obtain ⟨t, ht⟩ := completes (.decode 0) u
  rw [ht] at h
  exact ⟨t, ht, by simp only [answerOf, Option.some.injEq, Prod.mk.injEq] at h; exact h.1⟩

/-- The words of the text of payload 00. -/
def words : List (List Byte) := ([0x00] ++ crcBytes [0x00]).map fun v => (wordAt defaultWordlist v).chars

/-- The text of payload 00 with one word replaced. -/
def corrupted (k : Nat) (w : Byteword) : State := holding (joinWords 0x20 (words.set k w.chars))

theorem witness_CorruptedEdgeLetter :
    let w := wordAt defaultWordlist 0x8D
    let s := corrupted 4 { w with c3 := 0x7A }
    styleDecode 0 = some .standard ∧ sep .standard = some 0x20 ∧ s.wordlist = defaultWordlist ∧
      s.cfg.caseFoldEdges = false ∧ CacheOk s ∧ ([0x00] ++ crcBytes [0x00])[4]? = some 0x8D ∧
      isLowerLetter 0x7A = true ∧ 0x7A ≠ w.c0 ∧ 0x7A ≠ w.c3 ∧
      s.inBuf = joinWords 0x20 (words.set 4 { w with c3 := 0x7A }.chars) :=
  ⟨rfl, rfl, rfl, rfl, holding_cacheOk _, by decide +kernel, by decide, by decide +kernel,
    by decide +kernel, rfl⟩

/-- One code for each clause: next to the letters, a wrong middle letter, the separator, a capital. -/
theorem witness_CorruptedCharacter :
    let w := wordAt defaultWordlist 0x00
    (∀ w' : Byteword, styleDecode 0 = some .standard ∧ sep .standard = some 0x20 ∧
      (corrupted 0 w').wordlist.wf = true ∧ (corrupted 0 w').cfg.caseFoldEdges = false ∧
      CacheOk (corrupted 0 w') ∧
      (corrupted 0 w').inBuf = joinWords 0x20 (words.set 0 w'.chars)) ∧
    ([0x00] ++ crcBytes [0x00])[0]? = some 0x00 ∧
    ((0x60 : Byte) ≠ 0x20 ∧ isLowerLetter 0x60 = false) ∧
    ((0x78 : Byte) ≠ 0x20 ∧ lower 0x78 ≠ w.c1 ∧ lower 0x78 ≠ w.c2) ∧
    (([0x00] : List Byte) ≠ [] ∧ lower 0x42 = w.c1 ∧ lower 0x4C = w.c2) :=
  ⟨fun _ => ⟨rfl, rfl, holding_wf _, rfl, holding_cacheOk _, rfl⟩, by decide +kernel, by decide,
    by decide +kernel, by decide +kernel⟩

/-- The last byte of the body and the last byte of the trailer. -/
theorem witness_CorruptedByteDetected :
    (∀ u, (holding u).wordlist.wf = true ∧ CacheOk (holding u)) ∧ styleDecode 2 = some .minimal ∧
    ([0x00] : List Byte) ≠ [] ∧ ([0x00] ++ crcBytes [0x00])[0]? = some 0x00 ∧ (0x80 : Byte) ≠ 0x00 ∧
    ([0x00] ++ crcBytes [0x00])[4]? = some 0x8D ∧ (0x8C : Byte) ≠ 0x8D ∧
    ∀ k v', (holding (renderText defaultWordlist .minimal (([0x00] ++ crcBytes [0x00]).set k v'))).inBuf
      = renderText defaultWordlist .minimal (([0x00] ++ crcBytes [0x00]).set k v') :=
  ⟨fun u => ⟨holding_wf u, holding_cacheOk u⟩, rfl, by decide, by decide +kernel, by decide,
    by decide +kernel, by decide, fun _ _ => rfl⟩

end Sys2Proof.Tests
end

section
/-! PROOF. STATUS (spec/10_state.md R25): its layout, that a command never depends on the value it
held, and which values a command leaves in it. -/

namespace Sys2Proof.Proofs

open Sys2Proof.Machine Sys2Proof.Laws

/-! ## The layout of STATUS -/

@[simp] theorem statusWord_reserved (code : BitVec 4) :
    (statusWord code).extractLsb' 4 4 = 0#4 := by revert code; decide

@[simp] theorem statusWord_code (code : BitVec 4) :
    (statusWord code).extractLsb' 0 4 = code := by revert code; decide

/-- STATUS holds OK or the code of an error (R80). -/
def IsStatusCode (b : Byte) : Prop := b = 0x00 ∨ ∃ e : ErrorKind, b = statusWord (errorCode e)

theorem isStatusCode_errorCode (e : ErrorKind) : IsStatusCode (statusWord (errorCode e)) :=
  .inr ⟨e, rfl⟩

theorem isStatusCode_okCode : IsStatusCode (statusWord okCode) := .inl statusWord_okCode

theorem IsStatusCode.reserved {b : Byte} (h : IsStatusCode b) : b.extractLsb' 4 4 = 0#4 := by
  obtain rfl | ⟨e, rfl⟩ := h
  · rfl
  · exact statusWord_reserved _

theorem IsStatusCode.le_eight {b : Byte} (h : IsStatusCode b) : b.toNat ≤ 8 := by
  obtain rfl | ⟨e, rfl⟩ := h
  · decide
  · exact statusWord_errorCode_le e

/-! ## A command does not depend on the STATUS before it -/

theorem raiseError_setStatus (e : ErrorKind) (b : Byte) (s : State) :
    raiseError e { s with status := b } = raiseError e s := rfl

/-- The end of a command overwrites STATUS, in success and in error; a refusal leaves no state. -/
theorem finish_setStatus (r : Except ErrorKind (List Byte)) (b : Byte) (s : State) :
    finish r { s with status := b } = finish r s := by
  cases r with
  | ok out => rfl
  | error e => rfl

/-- The result of a command is computed without reading STATUS. -/
theorem commandResult_setStatus (i : Instr) (b : Byte) (s : State) :
    commandResult i { s with status := b } = commandResult i s := by
  cases i <;> rfl

/-- The build of the reverse index, where a command has one, leaves STATUS and does not read it. -/
theorem commandBase_setStatus (i : Instr) (b : Byte) (s : State) :
    commandBase i { s with status := b } = { commandBase i s with status := b } := by
  cases i with
  | crc32 _ | appendChecksum _ | wordAt _ | minimalWordAt _ | encode _ => rfl
  | decodeWord st | decode st => cases h : styleDecode st <;> simp [commandBase, ensureBuilt, h]

theorem exec_setStatus (i : Instr) (b : Byte) (s : State) :
    exec i { s with status := b } = exec i s := by
  rw [exec_eq_finish, exec_eq_finish, commandResult_setStatus, commandBase_setStatus,
    finish_setStatus]

/-- A write to CMD, legal or not, has the same outcome whatever STATUS held. -/
theorem issue_setStatus (c b : Byte) (s : State) :
    issue c { s with status := b } = issue c s := by
  cases hd : decodeCmd c with
  | ok i => rw [issue_ok hd, issue_ok hd]; exact exec_setStatus i b { s with cmd := c }
  | error e =>
    rw [issue_error hd, issue_error hd]
    exact congrArg _ (raiseError_setStatus .illegalCommand b { s with cmd := c })

/-! ## What a command leaves in STATUS -/

theorem finish_isStatusCode {r : Except ErrorKind (List Byte)} {s t : State}
    (h : finish r s = .next t) : IsStatusCode t.status := by
  obtain ⟨out, -, -, rfl⟩ | ⟨e, -, rfl⟩ := finish_next_cases h
  · exact isStatusCode_okCode
  · exact isStatusCode_errorCode e

theorem exec_isStatusCode {i : Instr} {s t : State} (h : exec i s = .next t) :
    IsStatusCode t.status :=
  finish_isStatusCode (exec_eq_finish i s ▸ h)

theorem issue_isStatusCode {c : Byte} {s t : State} (h : issue c s = .next t) :
    IsStatusCode t.status := by
  cases hd : decodeCmd c with
  | ok i => exact exec_isStatusCode (issue_ok hd ▸ h)
  | error e =>
    rw [issue_error hd] at h
    cases h
    exact isStatusCode_errorCode .illegalCommand

/-! ## The obligation -/

theorem step_writeStatus {s : State} {b : Byte} {rest : List HostOp}
    (h : s.host = .writeStatus b :: rest) : step s = .next { s with host := rest } :=
  step_transact h

theorem step_writeCmd {s : State} {c : Byte} {rest : List HostOp}
    (h : s.host = .writeCmd c :: rest) : step s = issue c { s with host := rest } :=
  step_transact h

theorem step_writeCmd_setStatus {s : State} {c : Byte} {rest : List HostOp} (b : Byte)
    (h : s.host = .writeCmd c :: rest) : step { s with status := b } = step s := by
  have hb : ({ s with status := b } : State).host = .writeCmd c :: rest := h
  rw [step_writeCmd h, step_writeCmd hb]
  exact issue_setStatus c b { s with host := rest }

theorem step_writeCmd_isStatusCode {s t : State} {c : Byte} {rest : List HostOp}
    (h : s.host = .writeCmd c :: rest) (ht : step s = .next t) : IsStatusCode t.status :=
  issue_isStatusCode (step_writeCmd h ▸ ht)

/-- Settles O11: a write to CMD ends in `raiseError`, in `finishOk` or in a refusal, and none of the
three reads STATUS. -/
theorem statusRegister : Obligations.StatusRegister := by
  refine ⟨fun s b rest h => step_writeStatus h,
    fun s => ⟨statusWord_reserved _, statusWord_code _⟩, rfl,
    fun s c b rest h => step_writeCmd_setStatus b h, fun s t c rest h ht => ?_⟩
  have hcode : IsStatusCode t.status := step_writeCmd_isStatusCode h ht
  exact ⟨hcode.reserved, hcode.le_eight, hcode⟩

end Sys2Proof.Proofs
end

section
/-! PROOF. Determinism (spec/20_memory.md R60): a command's STATUS and OUT depend on CMD, IN, WORDLIST
and the parameters alone, because the table it looks up in is the derived one, built before or not. -/

namespace Sys2Proof.Proofs

open Sys2Proof.Machine Sys2Proof.Laws

/-! ## What a command reads, and what the host sees of it -/

/-- Two states that hold the same IN, WORDLIST and parameters, each keeping the cache rule. REVIDX,
BUILT and all the rest may differ. -/
structure SameOperands (s t : State) : Prop where
  inBuf : s.inBuf = t.inBuf
  wordlist : s.wordlist = t.wordlist
  cfg : s.cfg = t.cfg
  cacheOk_left : CacheOk s
  cacheOk_right : CacheOk t

/-- Two commands complete with the same STATUS and OUT, or are refused for the same reason. -/
def SameAnswer : Host.Outcome State Fault Refusal → Host.Outcome State Fault Refusal → Prop
  | .next s, .next t => s.status = t.status ∧ s.out = t.out
  | .refused r, .refused r' => r = r'
  | _, _ => False

theorem SameOperands.setHost {s t : State} (h : SameOperands s t) (ops ops' : List HostOp) :
    SameOperands { s with host := ops } { t with host := ops' } :=
  ⟨h.inBuf, h.wordlist, h.cfg, h.cacheOk_left, h.cacheOk_right⟩

theorem SameOperands.setCmd {s t : State} (h : SameOperands s t) (c : Byte) :
    SameOperands { s with cmd := c } { t with cmd := c } :=
  ⟨h.inBuf, h.wordlist, h.cfg, h.cacheOk_left, h.cacheOk_right⟩

/-! ## The result of a command -/

theorem oneByteOperand_congr {s t : State} (h : s.inBuf = t.inBuf) :
    oneByteOperand s = oneByteOperand t := by
  unfold oneByteOperand
  rw [h]

/-- Under the cache rule the build leaves the same table in both states (R122, R124). -/
theorem SameOperands.ensureBuilt_revidx {s t : State} (h : SameOperands s t) :
    (ensureBuilt s).revidx = (ensureBuilt t).revidx := by
  rw [ensureBuilt_of_cacheOk h.cacheOk_left, ensureBuilt_of_cacheOk h.cacheOk_right,
    afterBuild_revidx, afterBuild_revidx, h.wordlist]

theorem decodeText_congr (st : Style) {s t : State} (hin : s.inBuf = t.inBuf)
    (hwl : s.wordlist = t.wordlist) (hcfg : s.cfg = t.cfg) (htable : s.revidx = t.revidx) :
    decodeText st s = decodeText st t := by
  unfold decodeText
  rw [hin, hwl, hcfg, htable]

theorem SameOperands.commandResult_eq {s t : State} (h : SameOperands s t) (i : Instr) :
    commandResult i s = commandResult i t := by
  cases i with
  | crc32 _ | appendChecksum _ | encode _ => simp only [commandResult, h.inBuf, h.wordlist]
  | wordAt _ | minimalWordAt _ =>
    simp only [commandResult, oneByteOperand_congr h.inBuf, h.wordlist]
  | decodeWord _ =>
    simp only [commandResult, h.inBuf, h.wordlist, h.cfg, h.ensureBuilt_revidx]
  | decode _ =>
    have htext (st : Style) : decodeText st (ensureBuilt s) = decodeText st (ensureBuilt t) :=
      decodeText_congr st h.inBuf h.wordlist h.cfg h.ensureBuilt_revidx
    simp only [commandResult, htext]

/-! ## The end of a command -/

@[simp] theorem commandBase_cfg (i : Instr) (s : State) : (commandBase i s).cfg = s.cfg := by
  obtain hb | ⟨_, -, -, hb⟩ := commandBase_cases i s
  · rw [hb]
  · rw [hb, ensureBuilt_cfg]

/-- The end of a command reads its result and BUF_CAP alone. -/
theorem finish_sameAnswer (r : Except ErrorKind (List Byte)) {s t : State} (h : s.cfg = t.cfg) :
    SameAnswer (finish r s) (finish r t) := by
  cases r with
  | error e => exact ⟨rfl, rfl⟩
  | ok out =>
    rw [finish_ok, finish_ok]
    by_cases hfit : fits s.cfg.bufCap out.length = true
    · rw [complete_of_fits hfit, complete_of_fits (h ▸ hfit)]
      exact ⟨rfl, rfl⟩
    · rw [complete_of_not_fits hfit, complete_of_not_fits (h ▸ hfit)]
      exact rfl

theorem SameOperands.exec_sameAnswer {s t : State} (h : SameOperands s t) (i : Instr) :
    SameAnswer (exec i s) (exec i t) := by
  rw [exec_eq_finish, exec_eq_finish, h.commandResult_eq]
  exact finish_sameAnswer _ (by rw [commandBase_cfg, commandBase_cfg, h.cfg])

theorem SameOperands.issue_sameAnswer {s t : State} (h : SameOperands s t) (c : Byte) :
    SameAnswer (issue c s) (issue c t) := by
  cases hd : decodeCmd c with
  | ok i =>
    rw [issue_ok hd, issue_ok hd]
    exact (h.setCmd c).exec_sameAnswer i
  | error e =>
    rw [issue_error hd, issue_error hd]
    exact ⟨rfl, rfl⟩

/-! ## The obligation -/

/-- Settles O19: both steps issue the command, and a command's result is the same function of CMD, IN,
WORDLIST and the parameters in each, since the look-up table is the derived one in both. -/
theorem commandIsFunctionOfCmdAndIn : Obligations.CommandIsFunctionOfCmdAndIn := by
  intro s t c rest rest' hs ht hin hwl hcfg hcs hct
  have hop : SameOperands s t := ⟨hin, hwl, hcfg, hcs, hct⟩
  have hans : SameAnswer (step s) (step t) := by
    rw [step_writeCmd hs, step_writeCmd ht]
    exact (hop.setHost rest rest').issue_sameAnswer c
  exact hans

end Sys2Proof.Proofs
end

section
/-! PROOF. The command decoder (spec/30_encoding.md R70, R71, R73): which CMD values it refuses, and what
a write of one does. -/

namespace Sys2Proof.Proofs

open Sys2Proof.Machine Sys2Proof.Laws

/-! ## Legal and illegal values -/

/-- The three reasons of R73 for which a CMD value is illegal. -/
def IllegalCmd (c : Byte) : Prop := rsvField c ≠ 0 ∨ opField c = 0 ∨ 8 ≤ (opField c).toNat

/-- The OP values with no operation (R71, R73). -/
theorem opMap_eq_none_iff {op : BitVec 4} {st : BitVec 2} :
    opMap op st = none ↔ op = 0 ∨ 8 ≤ op.toNat := by
  revert op st
  decide

theorem decodeCmd_of_rsv_ne {c : Byte} (h : rsvField c ≠ 0) :
    decodeCmd c = .error .reservedBits := if_pos h

theorem decodeCmd_of_opMap_some {c : Byte} {i : Instr} (hrsv : rsvField c = 0)
    (hop : opMap (opField c) (styleField c) = some i) : decodeCmd c = .ok i := by
  simp [decodeCmd, hrsv, hop]

theorem decodeCmd_of_opMap_none {c : Byte} (hrsv : rsvField c = 0)
    (hop : opMap (opField c) (styleField c) = none) : decodeCmd c = .error .unassignedOp := by
  simp [decodeCmd, hrsv, hop]

theorem IllegalCmd.decodeCmd_error {c : Byte} (h : IllegalCmd c) : ∃ e, decodeCmd c = .error e := by
  by_cases hrsv : rsvField c = 0
  · have hop : opMap (opField c) (styleField c) = none :=
      opMap_eq_none_iff.2 (h.resolve_left (not_not.2 hrsv))
    exact ⟨_, decodeCmd_of_opMap_none hrsv hop⟩
  · exact ⟨_, decodeCmd_of_rsv_ne hrsv⟩

theorem decodeCmd_ok_of_not_illegalCmd {c : Byte} (h : ¬ IllegalCmd c) :
    ∃ i, decodeCmd c = .ok i := by
  obtain ⟨hrsv, hop⟩ := not_or.1 h
  obtain ⟨i, hi⟩ := Option.ne_none_iff_exists'.1 (mt opMap_eq_none_iff.1 hop)
  exact ⟨i, decodeCmd_of_opMap_some (not_not.1 hrsv) hi⟩

theorem decodeCmd_ok_iff (c : Byte) : (∃ i, decodeCmd c = .ok i) ↔ ¬ IllegalCmd c := by
  refine ⟨fun ⟨i, hok⟩ hill => ?_, decodeCmd_ok_of_not_illegalCmd⟩
  obtain ⟨e, herr⟩ := hill.decodeCmd_error
  exact nomatch hok.symm.trans herr

/-- Seven operations in four styles each. -/
theorem countP_decodeCmd_isOk :
    ((List.range 256).countP fun n => (decodeCmd (BitVec.ofNat 8 n)).isOk) = 28 := by
  decide +kernel

/-! ## A write of an illegal value -/

theorem step_writeCmd_illegal {s : State} {c : Byte} {rest : List HostOp}
    (h : s.host = .writeCmd c :: rest) (hill : IllegalCmd c) :
    step s = .next { s with host := rest, cmd := c, out := [], status := 0x07 } := by
  obtain ⟨e, he⟩ := hill.decodeCmd_error
  rw [step_writeCmd h, issue_error he]
  rfl

/-- Settles O3: the decoder fails on exactly the three reasons of R73, and a failed decode raises
IllegalCommand. -/
theorem illegalCommandRaises : Obligations.IllegalCommandRaises :=
  ⟨decodeCmd_ok_iff, countP_decodeCmd_isOk, fun _ _ _ => step_writeCmd_illegal⟩

end Sys2Proof.Proofs
end

section
/-! PROOF. InvalidStyle (spec/45_style_multiplexer.md R202; spec/30_encoding.md R72): the errors of each
part of a command, and the three commands that end with STATUS 1. -/

namespace Sys2Proof.Proofs

open Sys2Proof.Machine Sys2Proof.Laws

/-! ## The errors of the parts of a command -/

theorem except_map_error_iff {ε α β : Type} {f : α → β} {r : Except ε α} {e : ε} :
    r.map f = .error e ↔ r = .error e := by
  cases r <;> simp [Except.map]

theorem oneByteOperand_error {s : State} {e : ErrorKind} (h : oneByteOperand s = .error e) :
    e = .invalidOperandLength := by
  obtain ⟨i, -, hr⟩ | ⟨-, hr⟩ := oneByteOperand_cases s
  · exact nomatch h.symm.trans hr
  · exact Except.error.inj (h.symm.trans hr)

/-- A token fails by one of the three checks of R188. -/
theorem decodeToken_error {fold : Bool} {wl : Wordlist} {table : RevIdx} {len : Nat} {t : List Byte}
    {e : ErrorKind} (h : decodeToken fold wl table len t = .error e) :
    e = .invalidWordLength ∨ e = .invalidWord ∨ e = .invalidMiddleLetters := by
  obtain ⟨-, hr⟩ | ⟨-, -, hr⟩ | ⟨v, -, -, ⟨-, hr⟩ | ⟨-, hr⟩⟩ := decodeToken_cases fold wl table len t
  · exact .inl (Except.error.inj (h.symm.trans hr))
  · exact .inr (.inl (Except.error.inj (h.symm.trans hr)))
  · exact .inr (.inr (Except.error.inj (h.symm.trans hr)))
  · exact nomatch h.symm.trans hr

/-- The error of a list of tokens is that of one of them (R190). -/
theorem decodeTokens_error {fold : Bool} {wl : Wordlist} {table : RevIdx} {len : Nat}
    {ts : List (List Byte)} {e : ErrorKind} (h : decodeTokens fold wl table len ts = .error e) :
    ∃ t ∈ ts, decodeToken fold wl table len t = .error e := by
  induction ts with
  | nil => exact nomatch h
  | cons t ts ih =>
    cases ht : decodeToken fold wl table len t with
    | error e' =>
      rw [decodeTokens_cons_error ht] at h
      cases h
      exact ⟨t, List.mem_cons_self, ht⟩
    | ok v =>
      rw [decodeTokens_cons_ok ht, except_map_error_iff] at h
      obtain ⟨u, hu, herr⟩ := ih h
      exact ⟨u, List.mem_cons_of_mem t hu, herr⟩

/-- A buffer fails by one of the two checks of R189. -/
theorem checkBuffer_error {buf : List Byte} {e : ErrorKind} (h : checkBuffer buf = .error e) :
    e = .invalidDecodedLength ∨ e = .checksumMismatch := by
  obtain ⟨-, hr⟩ | ⟨-, -, hr⟩ | ⟨-, -, hr⟩ := checkBuffer_cases buf
  · exact .inl (Except.error.inj (h.symm.trans hr))
  · exact .inr (Except.error.inj (h.symm.trans hr))
  · exact nomatch h.symm.trans hr

theorem decodeText_error {st : Style} {s : State} {e : ErrorKind} (h : decodeText st s = .error e) :
    decodeTokens s.cfg.caseFoldEdges s.wordlist s.revidx (tokenLen st) (tokens st s.inBuf)
      = .error e ∨ ∃ buf, checkBuffer buf = .error e := by
  unfold decodeText at h
  split at h
  next e' he => exact .inl (he.trans h)
  next buf _ => exact .inr ⟨buf, h⟩

theorem decodeToken_ne_invalidStyle (fold : Bool) (wl : Wordlist) (table : RevIdx) (len : Nat)
    (t : List Byte) : decodeToken fold wl table len t ≠ .error .invalidStyle := by
  intro h
  simpa using decodeToken_error h

theorem decodeText_ne_invalidStyle (st : Style) (s : State) :
    decodeText st s ≠ .error .invalidStyle := by
  intro h
  obtain htokens | ⟨buf, hbuf⟩ := decodeText_error h
  · obtain ⟨t, -, ht⟩ := decodeTokens_error htokens
    exact decodeToken_ne_invalidStyle _ _ _ _ t ht
  · simpa using checkBuffer_error hbuf

/-! ## The commands that raise InvalidStyle -/

/-- A command that reads STYLE, with STYLE = 11 (R202). -/
def HasInvalidStyle (i : Instr) : Prop := i = .encode 0b11 ∨ i = .decodeWord 0b11 ∨ i = .decode 0b11

theorem exec_of_hasInvalidStyle {i : Instr} (h : HasInvalidStyle i) (s : State) :
    exec i s = .next { s with out := [], status := 0x01 } := by
  obtain rfl | rfl | rfl := h <;> rfl

theorem hasInvalidStyle_of_commandResult {i : Instr} {s : State}
    (h : commandResult i s = .error .invalidStyle) : HasInvalidStyle i := by
  cases i with
  | crc32 _ | appendChecksum _ => exact nomatch h
  | wordAt _ | minimalWordAt _ =>
    exact nomatch oneByteOperand_error (except_map_error_iff.1 h)
  | encode style =>
    simp only [commandResult] at h
    split at h
    next hs => exact .inl (congrArg _ (styleDecode_eq_none.1 hs))
    next st _ => exact nomatch h
  | decodeWord style =>
    simp only [commandResult] at h
    split at h
    next hs => exact .inr (.inl (congrArg _ (styleDecode_eq_none.1 hs)))
    next st _ => exact absurd (except_map_error_iff.1 h) (decodeToken_ne_invalidStyle _ _ _ _ _)
  | decode style =>
    simp only [commandResult] at h
    split at h
    next hs => exact .inr (.inr (congrArg _ (styleDecode_eq_none.1 hs)))
    next st _ => exact absurd h (decodeText_ne_invalidStyle st _)

/-- Code 1 is that of InvalidStyle alone (R80). -/
theorem statusWord_errorCode_eq_one_iff {e : ErrorKind} :
    statusWord (errorCode e) = 0x01 ↔ e = .invalidStyle := by
  cases e <;> decide

theorem hasInvalidStyle_of_exec_status {i : Instr} {s t : State} (h : exec i s = .next t)
    (hone : t.status = 0x01) : HasInvalidStyle i := by
  rw [exec_eq_finish] at h
  obtain ⟨out, -, -, rfl⟩ | ⟨e, he, rfl⟩ := finish_next_cases h
  · rw [finishOk_status, statusWord_okCode] at hone
    exact absurd hone (by decide)
  · obtain rfl : e = .invalidStyle := statusWord_errorCode_eq_one_iff.1 hone
    exact hasInvalidStyle_of_commandResult he

/-- The four commands that do not read STYLE (R72). -/
theorem exec_ignores_style (a b : BitVec 2) (s : State) :
    exec (.crc32 a) s = exec (.crc32 b) s ∧
    exec (.appendChecksum a) s = exec (.appendChecksum b) s ∧
    exec (.wordAt a) s = exec (.wordAt b) s ∧
    exec (.minimalWordAt a) s = exec (.minimalWordAt b) s := by
  simp only [exec_crc32, exec_appendChecksum, exec_wordAt, exec_minimalWordAt, and_self]

/-- Settles O41: a command ends with STATUS 1 only by the error InvalidStyle, which no part of a command
but the check of its STYLE has. -/
theorem invalidStyleAndIgnoredStyle : Obligations.InvalidStyleAndIgnoredStyle :=
  ⟨⟨rfl, rfl, rfl, rfl⟩,
    fun s => ⟨exec_of_hasInvalidStyle (.inl rfl) s, exec_of_hasInvalidStyle (.inr (.inl rfl)) s,
      exec_of_hasInvalidStyle (.inr (.inr rfl)) s⟩,
    exec_ignores_style, fun _ _ _ => hasInvalidStyle_of_exec_status⟩

end Sys2Proof.Proofs
end

section
/-! PROOF. The decode order of a command (spec/30_encoding.md R74): RSV, then OP, then the rule of the
operation, which checks STYLE first where it reads it. -/

namespace Sys2Proof.Proofs

open Sys2Proof.Machine Sys2Proof.Laws

theorem step_writeCmd_of_opMap {s : State} {c : Byte} {rest : List HostOp} {i : Instr}
    (h : s.host = .writeCmd c :: rest) (hrsv : rsvField c = 0)
    (hop : opMap (opField c) (styleField c) = some i) :
    step s = exec i { s with host := rest, cmd := c } := by
  rw [step_writeCmd h, issue_ok (decodeCmd_of_opMap_some hrsv hop)]

/-- The map of R71 at the three operations that read STYLE. -/
theorem opMap_hasInvalidStyle {op : BitVec 4} (h : op = 0x5 ∨ op = 0x6 ∨ op = 0x7) :
    ∃ i, opMap op 0b11 = some i ∧ HasInvalidStyle i := by
  obtain rfl | rfl | rfl := h
  · exact ⟨_, rfl, .inl rfl⟩
  · exact ⟨_, rfl, .inr (.inl rfl)⟩
  · exact ⟨_, rfl, .inr (.inr rfl)⟩

theorem step_writeCmd_invalidStyle {s : State} {c : Byte} {rest : List HostOp}
    (h : s.host = .writeCmd c :: rest) (hrsv : rsvField c = 0) (hstyle : styleField c = 0b11)
    (hop : opField c = 0x5 ∨ opField c = 0x6 ∨ opField c = 0x7) :
    step s = .next { s with host := rest, cmd := c, out := [], status := 0x01 } := by
  obtain ⟨i, hi, hbad⟩ := opMap_hasInvalidStyle hop
  rw [step_writeCmd_of_opMap h hrsv (hstyle ▸ hi), exec_of_hasInvalidStyle hbad]

/-- An OP that is none of 1 to 7 is one of those R73 names. -/
theorem op_unassigned {op : BitVec 4} (h1 : op ≠ 0x1) (h2 : op ≠ 0x2) (h3 : op ≠ 0x3) (h4 : op ≠ 0x4)
    (h5 : op ≠ 0x5) (h6 : op ≠ 0x6) (h7 : op ≠ 0x7) : op = 0 ∨ 8 ≤ op.toNat := by
  bv_omega

/-- Settles O4: the chain is that of the decoder, RSV first and then the map of R71, one row of the map
for each branch. -/
theorem commandDecodeOrder : Obligations.CommandDecodeOrder := by
  intro s c rest h s' st
  refine ⟨step_writeCmd_invalidStyle h, ?_⟩
  split_ifs with hrsv h1 h2 h3 h4 h5 h6 h7
  · exact step_writeCmd_illegal h (.inl hrsv)
  all_goals replace hrsv : rsvField c = 0 := not_not.1 hrsv
  · exact step_writeCmd_of_opMap h hrsv (by rw [h1]; rfl)
  · exact step_writeCmd_of_opMap h hrsv (by rw [h2]; rfl)
  · exact step_writeCmd_of_opMap h hrsv (by rw [h3]; rfl)
  · exact step_writeCmd_of_opMap h hrsv (by rw [h4]; rfl)
  · exact step_writeCmd_of_opMap h hrsv (by rw [h5]; rfl)
  · exact step_writeCmd_of_opMap h hrsv (by rw [h6]; rfl)
  · exact step_writeCmd_of_opMap h hrsv (by rw [h7]; rfl)
  · exact step_writeCmd_illegal h (.inr (op_unassigned h1 h2 h3 h4 h5 h6 h7))

end Sys2Proof.Proofs
end

section
/-! PROOF. Instantiation of WORDLIST (spec/40_wordlist.md R100, R102): raw entries that can be read as a
WORDLIST are its words written out, so what R100 and R102 ask of the entries is what the model checks of
the WORDLIST. -/

namespace Sys2Proof.Proofs

open Sys2Proof.Machine Sys2Proof.Laws

/-! ## Reading raw entries -/

/-- The words of a WORDLIST as the raw entries of an instantiation. -/
def rawEntries (wl : Wordlist) : List (List Byte) := wl.toList.map Byteword.chars

theorem rawEntries_getElem? (wl : Wordlist) (i : Byte) :
    (rawEntries wl)[i.toNat]? = some (wordAt wl i).chars := by
  have hi : i.toNat < 256 := i.isLt
  simp [rawEntries, wordAt, hi]

theorem chars_injective : Function.Injective Byteword.chars := by
  intro v w h
  cases v
  cases w
  simpa [Byteword.chars] using h

/-- R100 (b), the length: an entry of four characters is the word it is read as. -/
theorem exists_chars_of_length {e : List Byte} (h : e.length = 4) :
    ∃ w : Byteword, parseEntry e = some w ∧ w.chars = e := by
  obtain ⟨a, b, c, d, rfl⟩ := List.length_eq_four.1 h
  exact ⟨⟨a, b, c, d⟩, rfl, rfl⟩

theorem length_of_parseEntry_isSome {e : List Byte} (h : (parseEntry e).isSome = true) :
    e.length = 4 := by
  unfold parseEntry at h
  split at h
  · rfl
  · cases h

theorem map_chars_filterMap_parseEntry {entries : List (List Byte)}
    (h : ∀ e ∈ entries, e.length = 4) :
    (entries.filterMap parseEntry).map Byteword.chars = entries := by
  induction entries with
  | nil => rfl
  | cons e es ih =>
    obtain ⟨w, hw, rfl⟩ := exists_chars_of_length (h e List.mem_cons_self)
    rw [List.filterMap_cons_some hw, List.map_cons, ih fun e he => h e (List.mem_cons_of_mem _ he)]

/-- R100 (a) and (b), the lengths: 256 entries of four characters are a WORDLIST written out. -/
theorem exists_rawEntries {entries : List (List Byte)} (hcount : entries.length = 256)
    (hlen : ∀ e ∈ entries, e.length = 4) : ∃ wl, entries = rawEntries wl := by
  have hmap := map_chars_filterMap_parseEntry hlen
  have hsize : (entries.filterMap parseEntry).length = 256 := by
    rw [← hcount, ← congrArg List.length hmap, List.length_map]
  exact ⟨⟨(entries.filterMap parseEntry).toArray, hsize⟩, hmap.symm⟩

theorem parseWordlist_eq_some_iff {entries : List (List Byte)} {wl : Wordlist} :
    parseWordlist entries = some wl ↔ entries = rawEntries wl := by
  constructor
  · intro h
    simp only [parseWordlist] at h
    split at h
    next hsize =>
      cases h
      have hsome : ∀ e ∈ entries, (parseEntry e).isSome = true :=
        List.filterMap_length_eq_length.1 (hsize.2.trans hsize.1.symm)
      exact (map_chars_filterMap_parseEntry fun e he =>
        length_of_parseEntry_isSome (hsome e he)).symm
    next => cases h
  · rintro rfl
    exact parseWordlist_chars wl

/-! ## The checks of R100 and R102, of the entries and of the WORDLIST -/

theorem lowercase_iff_rawEntries (wl : Wordlist) : wl.lowercase = true ↔
    ∀ e ∈ rawEntries wl, e.length = 4 ∧ ∀ c ∈ e, 0x61 ≤ c.toNat ∧ c.toNat ≤ 0x7A := by
  simp only [Wordlist.lowercase, rawEntries, List.all_eq_true, List.forall_mem_map, isLowerLetter,
    decide_eq_true_iff, chars_length, true_and]

theorem distinctWords_iff_rawEntries (wl : Wordlist) :
    wl.distinctWords = true ↔ (rawEntries wl).Nodup := by
  rw [Wordlist.distinctWords, decide_eq_true_iff, rawEntries, List.nodup_map_iff chars_injective]

/-- The first and last letter of an entry are the edge letters of its word. -/
theorem distinctEdges_iff_rawEntries (wl : Wordlist) : wl.distinctEdges = true ↔
    ((rawEntries wl).map fun e => (e.head?, e.getLast?)).Nodup := by
  have hedges : (rawEntries wl).map (fun e => (e.head?, e.getLast?)) =
      (wl.toList.map Byteword.edges).map (Prod.map some some) := by
    rw [rawEntries, List.map_map, List.map_map]
    rfl
  have hinj : Function.Injective (Prod.map (some : Byte → _) (some : Byte → _)) :=
    (Option.some_injective _).prodMap (Option.some_injective _)
  rw [Wordlist.distinctEdges, decide_eq_true_iff, hedges, List.nodup_map_iff hinj]

theorem goodEntries_rawEntries_iff {wl : Wordlist} :
    GoodEntries (rawEntries wl) ↔ wl.wf = true := by
  have hcount : (rawEntries wl).length = 256 := by simp [rawEntries]
  simp only [GoodEntries, Wordlist.wf, Bool.and_eq_true, hcount, true_and, and_assoc,
    lowercase_iff_rawEntries, distinctWords_iff_rawEntries, distinctEdges_iff_rawEntries]

theorem exists_wordlist_of_goodEntries {entries : List (List Byte)} (h : GoodEntries entries) :
    ∃ wl, entries = rawEntries wl ∧ wl.wf = true := by
  have ⟨hcount, hchars, _⟩ := h
  obtain ⟨wl, rfl⟩ := exists_rawEntries hcount fun e he => (hchars e he).1
  exact ⟨wl, rfl, goodEntries_rawEntries_iff.1 h⟩

/-- R102, word by word. -/
theorem agreesWithSource_iff {wl : Wordlist} : wl.agreesWithSource = true ↔
    (wordAt wl 0x00).chars = [0x61, 0x62, 0x6C, 0x65] ∧
    (wordAt wl 0xD2).chars = [0x74, 0x69, 0x65, 0x64] ∧
    (wordAt wl 0x02).chars = [0x61, 0x6C, 0x73, 0x6F] ∧
    (wordAt wl 0xEF).chars = [0x77, 0x65, 0x62, 0x73] ∧
    (wordAt wl 0x8D).chars = [0x6C, 0x75, 0x6E, 0x67] := by
  simp only [Wordlist.agreesWithSource, Bool.and_eq_true, decide_eq_true_iff, and_assoc]
  rfl

theorem sourceAgrees_rawEntries_iff {wl : Wordlist} :
    SourceAgrees (rawEntries wl) ↔ wl.agreesWithSource = true := by
  have hentry (i : Byte) (w : List Byte) :
      (rawEntries wl)[i.toNat]? = some w ↔ (wordAt wl i).chars = w := by
    rw [rawEntries_getElem?, Option.some_inj]
  rw [agreesWithSource_iff]
  exact and_congr (hentry 0x00 _) (and_congr (hentry 0xD2 _) (and_congr (hentry 0x02 _)
    (and_congr (hentry 0xEF _) (hentry 0x8D _))))

/-! ## What an instantiation answers -/

theorem instantiate_of_not_goodEntries (cfg : Config) {entries : List (List Byte)}
    (h : ¬ GoodEntries entries) : instantiate cfg entries = .refused .illFormedWordlist := by
  obtain ⟨-, hr⟩ | ⟨wl, hp, ⟨-, hr⟩ | ⟨hwf, -⟩ | ⟨hwf, -⟩⟩ := instantiate_cases cfg entries
  · exact hr
  · exact hr
  all_goals
    obtain rfl := parseWordlist_eq_some_iff.1 hp
    exact absurd (goodEntries_rawEntries_iff.2 hwf) h

theorem instantiate_next_iff {cfg : Config} {entries : List (List Byte)} {s : State} :
    instantiate cfg entries = .next s ↔
      ∃ wl, entries = rawEntries wl ∧ wl.wf = true ∧ wl.agreesWithSource = true ∧
        s = { State.reset with wordlist := wl, cfg := cfg } := by
  constructor
  · intro h
    obtain ⟨-, hr⟩ | ⟨wl, hp, ⟨-, hr⟩ | ⟨-, -, hr⟩ | ⟨hwf, hsrc, hr⟩⟩ := instantiate_cases cfg entries
    · exact nomatch hr.symm.trans h
    · exact nomatch hr.symm.trans h
    · exact nomatch hr.symm.trans h
    · exact ⟨wl, parseWordlist_eq_some_iff.1 hp, hwf, hsrc,
        Host.Outcome.next.inj (h.symm.trans hr)⟩
  · rintro ⟨wl, rfl, hwf, hsrc, rfl⟩
    simp [instantiate, parseWordlist_eq_some_iff.2 rfl, hwf, hsrc]

/-- Settles O31: `instantiate` reads the entries as a WORDLIST exactly when they are its words written
out, and of those words its checks are R100 and R102. -/
theorem instantiationOfWordlist : Obligations.InstantiationOfWordlist := by
  intro cfg entries
  refine ⟨instantiate_of_not_goodEntries cfg, fun s h => ?_, fun hgood hsrc => ?_⟩
  · obtain ⟨wl, rfl, hwf, -, rfl⟩ := instantiate_next_iff.1 h
    exact ⟨goodEntries_rawEntries_iff.2 hwf, rfl, rawEntries_getElem? wl⟩
  · obtain ⟨wl, rfl, hwf⟩ := exists_wordlist_of_goodEntries hgood
    exact ⟨_, instantiate_next_iff.2 ⟨wl, rfl, hwf, sourceAgrees_rawEntries_iff.1 hsrc, rfl⟩⟩

/-! ## The entries that the source fixes -/

theorem minimalWordAt_of_chars {wl : Wordlist} {i a b c d : Byte}
    (h : (wordAt wl i).chars = [a, b, c, d]) : minimalWordAt wl i = [a, d] := by
  have hw : wordAt wl i = ⟨a, b, c, d⟩ := chars_injective h
  rw [minimalWordAt, hw]

/-- The first text of the source's first vector: `able tied also webs lung`. -/
theorem renderText_standard_source {wl : Wordlist} (h : wl.agreesWithSource = true) :
    renderText wl .standard [0x00, 0xD2, 0x02, 0xEF, 0x8D] =
      [0x61, 0x62, 0x6C, 0x65, 0x20, 0x74, 0x69, 0x65, 0x64, 0x20, 0x61, 0x6C, 0x73, 0x6F, 0x20,
        0x77, 0x65, 0x62, 0x73, 0x20, 0x6C, 0x75, 0x6E, 0x67] := by
  obtain ⟨hable, htied, halso, hwebs, hlung⟩ := agreesWithSource_iff.1 h
  simp only [renderText, sep, List.map_cons, List.map_nil, hable, htied, halso, hwebs, hlung]
  rfl

/-- The second text: `aetdaowslg`. -/
theorem renderText_minimal_source {wl : Wordlist} (h : wl.agreesWithSource = true) :
    renderText wl .minimal [0x00, 0xD2, 0x02, 0xEF, 0x8D] =
      [0x61, 0x65, 0x74, 0x64, 0x61, 0x6F, 0x77, 0x73, 0x6C, 0x67] := by
  obtain ⟨hable, htied, halso, hwebs, hlung⟩ := agreesWithSource_iff.1 h
  simp only [renderText, sep, List.map_cons, List.map_nil, minimalWordAt_of_chars hable,
    minimalWordAt_of_chars htied, minimalWordAt_of_chars halso, minimalWordAt_of_chars hwebs,
    minimalWordAt_of_chars hlung]
  rfl

/-- Settles O33: the check of R102 is of these five words, for the default table and for every
instantiation alike, and the two texts are made of them alone. -/
theorem sourceEntries : Obligations.SourceEntries := by
  obtain ⟨hable, htied, halso, hwebs, hlung⟩ :=
    agreesWithSource_iff.1 defaultWordlist_agreesWithSource
  refine ⟨hable, htied, halso, hwebs, hlung, fun cfg entries s h => ?_⟩
  obtain ⟨wl, rfl, -, hsrc, rfl⟩ := instantiate_next_iff.1 h
  exact ⟨sourceAgrees_rawEntries_iff.2 hsrc, renderText_standard_source hsrc,
    renderText_minimal_source hsrc⟩

end Sys2Proof.Proofs
end

section
/-! PROOF. Minimal codes and the reverse index (spec/40_wordlist.md R104; spec/41_reverse_index.md R121,
R125): the cell of a word tells its edge letters, which on a well-formed WORDLIST tell its index. -/

namespace Sys2Proof.Proofs

open Sys2Proof.Machine Sys2Proof.Laws

/-! ## Cells -/

/-- Both coordinates are in the range that a look-up accepts (R125). -/
def InRange (x y : Int) : Prop := 0 ≤ x ∧ x < 26 ∧ 0 ≤ y ∧ y < 26

theorem cellIndex_bounds {x y : Int} (h : InRange x y) :
    0 ≤ cellIndex x y ∧ cellIndex x y < 676 := by
  obtain ⟨hx0, hx, hy0, hy⟩ := h
  unfold cellIndex
  omega

theorem cellIndex_inj {x y x' y' : Int} (h : InRange x y) (h' : InRange x' y')
    (heq : cellIndex x y = cellIndex x' y') : x = x' ∧ y = y' := by
  obtain ⟨hx0, hx, hy0, hy⟩ := h
  obtain ⟨hx0', hx', hy0', hy'⟩ := h'
  unfold cellIndex at heq
  omega

theorem coord_inj {a b : Byte} : coord a = coord b ↔ a = b := by
  refine ⟨fun h => BitVec.eq_of_toNat_eq ?_, congrArg coord⟩
  unfold coord at h
  omega

theorem coord_range_of_isLowerLetter {c : Byte} (h : isLowerLetter c = true) :
    0 ≤ coord c ∧ coord c < 26 := by
  obtain ⟨hlow, hhigh⟩ := of_decide_eq_true h
  unfold coord
  omega

/-! ## The words of a well-formed WORDLIST -/

theorem inRange_edges {wl : Wordlist} (h : wl.wf = true) (i : Byte) :
    InRange (coord (wordAt wl i).c0) (coord (wordAt wl i).c3) := by
  have hlower := (wordlist_wf_entries h).1 i
  have hfirst : (wordAt wl i).c0 ∈ (wordAt wl i).chars := by simp [Byteword.chars]
  have hlast : (wordAt wl i).c3 ∈ (wordAt wl i).chars := by simp [Byteword.chars]
  obtain ⟨hx0, hx⟩ := coord_range_of_isLowerLetter (hlower _ hfirst)
  obtain ⟨hy0, hy⟩ := coord_range_of_isLowerLetter (hlower _ hlast)
  exact ⟨hx0, hx, hy0, hy⟩

theorem index_eq_of_edges {wl : Wordlist} (h : wl.wf = true) {i j : Byte}
    (hfirst : (wordAt wl i).c0 = (wordAt wl j).c0) (hlast : (wordAt wl i).c3 = (wordAt wl j).c3) :
    i = j :=
  (wordlist_wf_entries h).2 i j (Prod.ext hfirst hlast)

theorem minimalWordAt_eq_iff {wl : Wordlist} {i a b : Byte} :
    minimalWordAt wl i = [a, b] ↔ (wordAt wl i).c0 = a ∧ (wordAt wl i).c3 = b := by
  simp [minimalWordAt]

theorem minimalWordAt_injective {wl : Wordlist} (h : wl.wf = true) :
    Function.Injective (minimalWordAt wl) := by
  intro i j hij
  obtain ⟨hfirst, hlast⟩ := minimalWordAt_eq_iff.1 hij
  exact index_eq_of_edges h hfirst hlast

/-- Words of a well-formed WORDLIST have different cells (R100 (d)). -/
theorem index_eq_of_wordCell {wl : Wordlist} (h : wl.wf = true) {i j : Byte}
    (hij : wordCell (wordAt wl i) = wordCell (wordAt wl j)) : i = j := by
  obtain ⟨hx, hy⟩ := cellIndex_inj (inRange_edges h i) (inRange_edges h j) hij
  exact index_eq_of_edges h (coord_inj.1 hx) (coord_inj.1 hy)

/-! ## The derived table and its look-up -/

theorem wordAt_ofNat (wl : Wordlist) {n : Nat} (h : n < 256) :
    wordAt wl (BitVec.ofNat 8 n) = wl[n] := by
  simp [wordAt, Nat.mod_eq_of_lt h]

theorem wordCell_of_revCell {wl : Wordlist} {c : Nat} {i : Byte} (h : revCell wl c = some i) :
    wordCell (wordAt wl i) = c := by
  obtain ⟨n, hn, rfl⟩ := Option.map_eq_some_iff.1 h
  obtain ⟨hlt, hcell, -⟩ := List.findIdx?_eq_some_iff_getElem.1 hn
  have hn256 : n < 256 := by simpa using hlt
  rw [wordAt_ofNat wl hn256]
  simpa using hcell

theorem revCell_isSome {wl : Wordlist} {c : Nat} {i : Byte} (h : wordCell (wordAt wl i) = c) :
    (revCell wl c).isSome = true := by
  rw [revCell, Option.isSome_map, List.findIdx?_isSome, List.any_eq_true]
  exact ⟨wordAt wl i, by simp [wordAt], by simpa using h⟩

/-- R121: on a well-formed WORDLIST a cell holds `i` exactly when the word of `i` has that cell. -/
theorem revCell_eq_some_iff {wl : Wordlist} (hwf : wl.wf = true) {c : Nat} {i : Byte} :
    revCell wl c = some i ↔ wordCell (wordAt wl i) = c := by
  refine ⟨wordCell_of_revCell, fun h => ?_⟩
  obtain ⟨j, hj⟩ := Option.isSome_iff_exists.1 (revCell_isSome h)
  have hij : j = i := index_eq_of_wordCell hwf ((wordCell_of_revCell hj).trans h.symm)
  rw [hj, hij]

/-- R125: a look-up finds a byte exactly in range, and then it is that of the cell. -/
theorem lookup_eq_value_iff {table : RevIdx} {x y : Int} {v : Byte} :
    lookup table x y = .value v ↔
      InRange x y ∧ table[(cellIndex x y).toNat]?.join = some v := by
  obtain ⟨hl, hout⟩ | ⟨hin, ⟨hl, hcell⟩ | ⟨u, hl, hcell⟩⟩ := lookup_cases table x y
  · simp [hl, InRange, hout]
  · simp [hl, hcell]
  · simp [hl, hcell, InRange, hin]

theorem lookup_revTable_eq_value_iff {wl : Wordlist} (hwf : wl.wf = true) {x y : Int} {v : Byte} :
    lookup (revTable wl) x y = .value v ↔
      coord (wordAt wl v).c0 = x ∧ coord (wordAt wl v).c3 = y := by
  have hedges := inRange_edges hwf v
  have hiff (hin : InRange x y) : (revTable wl)[(cellIndex x y).toNat]?.join = some v ↔
      wordCell (wordAt wl v) = cellIndex x y := by
    obtain ⟨hlow, hhigh⟩ := cellIndex_bounds hin
    rw [revTable_getElem? wl (by omega), Option.join_some, revCell_eq_some_iff hwf,
      Int.toNat_of_nonneg hlow]
  rw [lookup_eq_value_iff]
  constructor
  · rintro ⟨hin, hcell⟩
    exact cellIndex_inj hedges hin ((hiff hin).1 hcell)
  · rintro ⟨rfl, rfl⟩
    exact ⟨hedges, (hiff hedges).2 rfl⟩

/-- Settles O34: a minimal code is the pair of edge letters, which R100 (d) makes distinct; and the cell
that a look-up reads holds the one index whose word has those edge letters. -/
theorem reverseIndexInvertsMinimalCode : Obligations.ReverseIndexInvertsMinimalCode := by
  intro wl hwf
  refine ⟨fun i => rfl, fun i j hij => minimalWordAt_injective hwf hij, fun a b v => ?_⟩
  rw [lookup_revTable_eq_value_iff hwf, coord_inj, coord_inj, minimalWordAt_eq_iff]

end Sys2Proof.Proofs
end

section
/-! PROOF. The look-up commands (spec/40_wordlist.md R105, R106): each ends with the entry of its one
byte, or with InvalidOperandLength. -/

namespace Sys2Proof.Proofs

open Sys2Proof.Machine Sys2Proof.Laws

/-! ## The operand -/

theorem oneByteOperand_of_single {s : State} {i : Byte} (h : s.inBuf = [i]) :
    oneByteOperand s = .ok i := by
  rw [oneByteOperand, h]

theorem oneByteOperand_of_length_ne_one {s : State} (h : s.inBuf.length ≠ 1) :
    oneByteOperand s = .error .invalidOperandLength := by
  obtain ⟨i, hi, -⟩ | ⟨-, hr⟩ := oneByteOperand_cases s
  · exact absurd (congrArg List.length hi) h
  · exact hr

/-! ## The end of a command that looks up one byte -/

/-- A look-up of one byte whose result fits: OUT and STATUS are all that changes. -/
theorem finish_lookup_of_single {s : State} {i : Byte} (f : Byte → List Byte) (hin : s.inBuf = [i])
    (hfit : fits s.cfg.bufCap (f i).length = true) :
    finish ((oneByteOperand s).map f) s = .next { s with out := f i, status := 0x00 } := by
  rw [oneByteOperand_of_single hin]
  exact complete_of_fits hfit

/-- A look-up of any other length (R105, R106). -/
theorem finish_lookup_of_length_ne_one {s : State} (f : Byte → List Byte)
    (h : s.inBuf.length ≠ 1) :
    finish ((oneByteOperand s).map f) s = .next { s with out := [], status := 0x08 } := by
  rw [oneByteOperand_of_length_ne_one h]
  rfl

/-! ## The two commands -/

theorem decodeCmd_wordAt (ss : BitVec 2) : decodeCmd ((0#2 ++ ss) ++ 0x3#4) = .ok (.wordAt ss) := by
  obtain ⟨-, -, -, hdecode⟩ := Fields.wordAt ss
  exact hdecode

theorem decodeCmd_minimalWordAt (ss : BitVec 2) :
    decodeCmd ((0#2 ++ ss) ++ 0x4#4) = .ok (.minimalWordAt ss) := by
  obtain ⟨-, -, -, hdecode⟩ := Fields.minimalWordAt ss
  exact hdecode

/-- The word of 04 in the default table: `aqua` (R101). -/
theorem defaultWordlist_chars_aqua :
    (wordAt defaultWordlist 0x04).chars = [0x61, 0x71, 0x75, 0x61] := by decide +kernel

/-- The last word of the default table: `zoom` (R101). -/
theorem defaultWordlist_chars_zoom :
    (wordAt defaultWordlist 0xFF).chars = [0x7A, 0x6F, 0x6F, 0x6D] := by decide +kernel

/-- Settles O38: WORD_AT is a look-up of the four characters of a word; the words of 00 and D2 are those
of the source. -/
theorem wordAtCommand : Obligations.WordAtCommand := by
  obtain ⟨hable, htied, -⟩ := agreesWithSource_iff.1 defaultWordlist_agreesWithSource
  refine ⟨decodeCmd_wordAt, fun ss s => ⟨fun i hin hfit => ?_, fun hlen => ?_⟩,
    hable, defaultWordlist_chars_zoom, htied⟩
  · exact finish_lookup_of_single (fun i => (wordAt s.wordlist i).chars) hin hfit
  · exact finish_lookup_of_length_ne_one (fun i => (wordAt s.wordlist i).chars) hlen

/-- Settles O39: MINIMAL_WORD_AT is a look-up of the two edge letters of a word; the word of 8D is that
of the source. -/
theorem minimalWordAtCommand : Obligations.MinimalWordAtCommand := by
  obtain ⟨-, -, -, -, hlung⟩ := agreesWithSource_iff.1 defaultWordlist_agreesWithSource
  refine ⟨decodeCmd_minimalWordAt, fun ss s => ⟨fun i hin hfit => ?_, fun hlen => ?_⟩,
    minimalWordAt_of_chars defaultWordlist_chars_aqua,
    minimalWordAt_of_chars defaultWordlist_chars_zoom, minimalWordAt_of_chars hlung⟩
  · exact finish_lookup_of_single (minimalWordAt s.wordlist) hin hfit
  · exact finish_lookup_of_length_ne_one (minimalWordAt s.wordlist) hlen

end Sys2Proof.Proofs
end

section
/-! PROOF. The look-up of a token's edge letters (spec/41_reverse_index.md R125): each answer told by the
range of the coordinates and the cell they name, and what an absence does to the token. -/

namespace Sys2Proof.Proofs

open Sys2Proof.Machine Sys2Proof.Laws

theorem lookup_eq_absentRange_iff {table : RevIdx} {x y : Int} :
    lookup table x y = .absentRange ↔ ¬ InRange x y := by
  obtain ⟨hl, hout⟩ | ⟨hin, ⟨hl, -⟩ | ⟨v, hl, -⟩⟩ := lookup_cases table x y
  · simp [hl, InRange, hout]
  · simp [hl, InRange, hin]
  · simp [hl, InRange, hin]

theorem lookup_eq_absentCell_iff {table : RevIdx} {x y : Int} :
    lookup table x y = .absentCell ↔
      InRange x y ∧ table[(cellIndex x y).toNat]?.join = none := by
  obtain ⟨hl, hout⟩ | ⟨hin, ⟨hl, hcell⟩ | ⟨v, hl, hcell⟩⟩ := lookup_cases table x y
  · simp [hl, InRange, hout]
  · simp [hl, hcell, InRange, hin]
  · simp [hl, hcell]

theorem inRange_natCast {a b : Nat} (ha : a < 26) (hb : b < 26) : InRange a b := by
  unfold InRange
  omega

theorem cellIndex_natCast_toNat (a b : Nat) : (cellIndex a b).toNat = b * 26 + a := by
  unfold cellIndex
  omega

/-- Both ways of being absent are InvalidWord, once the token has the expected length (R183, R188). -/
theorem decodeToken_of_absent {fold : Bool} {wl : Wordlist} {table : RevIdx} {t : List Byte}
    (habsent :
      let found := lookup table (coord (edge fold (charAt t 0)))
        (coord (edge fold (charAt t (t.length - 1))))
      found = .absentRange ∨ found = .absentCell) :
    decodeToken fold wl table t.length t = .error .invalidWord := by
  obtain ⟨hlen, -⟩ | ⟨-, -, herr⟩ | ⟨v, -, hvalue, -⟩ := decodeToken_cases fold wl table t.length t
  · exact absurd rfl hlen
  · exact herr
  · exact absurd habsent (by simp [hvalue])

/-- Settles O36: each answer of the look-up is characterised by the range and the cell alone, and the
order of the checks of a token leaves InvalidWord for both absences. -/
theorem lookupCases : Obligations.LookupCases := by
  refine ⟨fun table x y => ⟨lookup_eq_absentRange_iff.2, fun a b ha hb => ⟨fun hcell => ?_,
    fun v hcell => ?_⟩⟩, fun table fold wl t => decodeToken_of_absent⟩
  · exact lookup_eq_absentCell_iff.2
      ⟨inRange_natCast ha hb, by rw [cellIndex_natCast_toNat, hcell, Option.join_some]⟩
  · exact lookup_eq_value_iff.2
      ⟨inRange_natCast ha hb, by rw [cellIndex_natCast_toNat, hcell, Option.join_some]⟩

end Sys2Proof.Proofs
end

section
/-! PROOF. The derived table (spec/41_reverse_index.md R121): what its cells hold, how many are present,
and that the build loop leaves it. All three rest on words having different cells. -/

namespace Sys2Proof.Proofs

open Sys2Proof.Machine Sys2Proof.Laws

/-! ## The cells that are present -/

theorem revTable_getElem?_eq_some_iff {wl : Wordlist} (hwf : wl.wf = true) {c : Nat} (hc : c < 676)
    {i : Byte} : (revTable wl)[c]? = some (some i) ↔ wordCell (wordAt wl i) = c := by
  rw [revTable_getElem? wl hc, Option.some_inj, revCell_eq_some_iff hwf]

/-- The cell that the turn of the build loop for the index `n` assigns (R121). -/
def assignedCell (wl : Wordlist) (n : Nat) : Nat := (wordCell (wordAt wl (BitVec.ofNat 8 n))).toNat

theorem wordCell_bounds {wl : Wordlist} (hwf : wl.wf = true) (i : Byte) :
    0 ≤ wordCell (wordAt wl i) ∧ wordCell (wordAt wl i) < 676 :=
  cellIndex_bounds (inRange_edges hwf i)

theorem wordCell_eq_natCast_iff {wl : Wordlist} (hwf : wl.wf = true) {i : Byte} {c : Nat} :
    wordCell (wordAt wl i) = c ↔ assignedCell wl i.toNat = c := by
  have hbounds := wordCell_bounds hwf i
  rw [assignedCell, BitVec.ofNat_toNat, BitVec.setWidth_eq]
  omega

theorem assignedCell_lt {wl : Wordlist} (hwf : wl.wf = true) (n : Nat) :
    assignedCell wl n < 676 := by
  have hbounds := wordCell_bounds hwf (BitVec.ofNat 8 n)
  unfold assignedCell
  omega

theorem toNat_eq_of_assignedCell {wl : Wordlist} (hwf : wl.wf = true) {i j : Byte}
    (h : assignedCell wl i.toNat = assignedCell wl j.toNat) : i = j := by
  have hi := (wordCell_eq_natCast_iff hwf).2 h
  have hj := (wordCell_eq_natCast_iff hwf (i := j)).2 rfl
  exact index_eq_of_wordCell hwf (hi.trans hj.symm)

theorem revCell_isSome_iff {wl : Wordlist} (hwf : wl.wf = true) {c : Nat} :
    (revCell wl c).isSome = true ↔ ∃ n < 256, assignedCell wl n = c := by
  rw [Option.isSome_iff_exists]
  constructor
  · rintro ⟨i, hi⟩
    exact ⟨i.toNat, i.isLt, (wordCell_eq_natCast_iff hwf).1 ((revCell_eq_some_iff hwf).1 hi)⟩
  · rintro ⟨n, hn, hcell⟩
    have hnat : (BitVec.ofNat 8 n).toNat = n := Nat.mod_eq_of_lt hn
    exact ⟨BitVec.ofNat 8 n, (revCell_eq_some_iff hwf).2
      ((wordCell_eq_natCast_iff hwf).2 (by rw [hnat, hcell]))⟩

/-- The present cells are those of the 256 words, each once. -/
theorem filter_revCell_perm {wl : Wordlist} (hwf : wl.wf = true) :
    ((List.range 676).filter fun c => (revCell wl c).isSome).Perm
      ((List.range 256).map (assignedCell wl)) := by
  have hnodup : ((List.range 256).map (assignedCell wl)).Nodup := by
    refine List.Nodup.map_on (fun m hm n hn hmn => ?_) List.nodup_range
    have hm' : (BitVec.ofNat 8 m).toNat = m := Nat.mod_eq_of_lt (List.mem_range.1 hm)
    have hn' : (BitVec.ofNat 8 n).toNat = n := Nat.mod_eq_of_lt (List.mem_range.1 hn)
    rw [← hm', ← hn'] at hmn ⊢
    exact congrArg BitVec.toNat (toNat_eq_of_assignedCell hwf hmn)
  refine (List.perm_ext_iff_of_nodup (List.nodup_range.filter _) hnodup).2 fun c => ?_
  simp only [List.mem_filter, List.mem_map, List.mem_range, revCell_isSome_iff hwf]
  refine ⟨And.right, fun h => ⟨?_, h⟩⟩
  obtain ⟨n, -, rfl⟩ := h
  exact assignedCell_lt hwf n

theorem countP_revTable_isSome {wl : Wordlist} (hwf : wl.wf = true) :
    (revTable wl).toList.countP Option.isSome = 256 := by
  calc (revTable wl).toList.countP Option.isSome
      = ((List.range 676).filter fun c => (revCell wl c).isSome).length := by
        rw [revTable_toList, List.countP_map, List.countP_eq_length_filter]; rfl
    _ = ((List.range 256).map (assignedCell wl)).length := (filter_revCell_perm hwf).length_eq
    _ = 256 := by rw [List.length_map, List.length_range]

theorem countP_revTable_isNone {wl : Wordlist} (hwf : wl.wf = true) :
    (revTable wl).toList.countP Option.isNone = 420 := by
  have hsplit := List.length_eq_countP_add_countP Option.isSome (l := (revTable wl).toList)
  have hnone : (fun o : Option Byte => decide ¬ o.isSome = true) = Option.isNone := by
    funext o
    cases o <;> rfl
  rw [hnone, countP_revTable_isSome hwf, Vector.length_toList] at hsplit
  omega

/-! ## The build loop -/

theorem buildStep_getElem? {wl : Wordlist} (hwf : wl.wf = true) (table : RevIdx) (n c : Nat) :
    (buildStep wl table n)[c]? =
      if assignedCell wl n = c then some (some (BitVec.ofNat 8 n)) else table[c]? := by
  have hinside : assignedCell wl n < 676 := assignedCell_lt hwf n
  exact Vector.getElem?_setIfInBounds.trans (if_congr Iff.rfl (if_pos hinside) rfl)

/-- After the first `n` turns the present cells are those of the words of the indices below `n`. -/
theorem foldl_buildStep_getElem?_eq_some_iff {wl : Wordlist} (hwf : wl.wf = true) {n : Nat}
    (hn : n ≤ 256) {c : Nat} {i : Byte} :
    ((List.range n).foldl (buildStep wl) (Vector.replicate 676 none))[c]? = some (some i) ↔
      i.toNat < n ∧ assignedCell wl i.toNat = c := by
  induction n with
  | zero => simp [Vector.getElem?_replicate]
  | succ n ih =>
    have hnat : (BitVec.ofNat 8 n).toNat = n := Nat.mod_eq_of_lt (by omega)
    rw [List.range_succ, List.foldl_append, List.foldl_cons, List.foldl_nil,
      buildStep_getElem? hwf]
    by_cases hcell : assignedCell wl n = c
    · rw [if_pos hcell, Option.some_inj, Option.some_inj]
      constructor
      · rintro rfl
        rw [hnat]
        exact ⟨Nat.lt_succ_self n, hcell⟩
      · rintro ⟨-, hi⟩
        exact toNat_eq_of_assignedCell hwf (by rw [hnat, hcell, hi])
    · rw [if_neg hcell, ih (by omega)]
      refine and_congr_left fun hi => ?_
      have hne : i.toNat ≠ n := fun h => hcell (h ▸ hi)
      omega

theorem buildLoop_eq_revTable {wl : Wordlist} (hwf : wl.wf = true) : buildLoop wl = revTable wl := by
  refine Vector.ext fun c hc => Option.ext fun i => ?_
  rw [← Option.some_inj, ← Option.some_inj (b := some i), ← Vector.getElem?_eq_getElem hc,
    ← Vector.getElem?_eq_getElem hc, revTable_getElem?_eq_some_iff hwf hc,
    wordCell_eq_natCast_iff hwf, buildLoop,
    foldl_buildStep_getElem?_eq_some_iff hwf (Nat.le_refl 256)]
  exact and_iff_right i.isLt

/-- A build of a machine that has none (R121, R122, R63). -/
theorem ensureBuilt_of_not_built {s : State} (h : s.built = false) :
    ensureBuilt s = { s with built := true, revidx := revTable s.wordlist } := by
  simp [ensureBuilt, h]

/-- Settles O35: each word of a well-formed WORDLIST has a cell of its own within the table, so 256
cells are present, and the assignments of the build loop never meet. -/
theorem derivedTable : Obligations.DerivedTable := by
  refine fun wl hwf => ⟨fun c hc i => revTable_getElem?_eq_some_iff hwf hc,
    countP_revTable_isSome hwf, countP_revTable_isNone hwf, buildLoop_eq_revTable hwf, ?_⟩
  rintro s rfl hbuilt
  rw [ensureBuilt_of_not_built hbuilt, buildLoop_eq_revTable hwf]

end Sys2Proof.Proofs
end

section
/-! PROOF. When the reverse index is built (spec/41_reverse_index.md R122): by a decoder command that has
passed its style check, and every other command neither reads nor writes REVIDX and BUILT. -/

namespace Sys2Proof.Proofs

open Sys2Proof.Machine Sys2Proof.Laws

/-- A decoder command with a valid style (R122). -/
def BuildsIndex (i : Instr) : Prop :=
  ∃ st, styleDecode st ≠ none ∧ (i = .decodeWord st ∨ i = .decode st)

theorem commandBase_of_buildsIndex {i : Instr} (h : BuildsIndex i) (s : State) :
    commandBase i s = ensureBuilt s := by
  obtain ⟨st, hst, rfl | rfl⟩ := h <;> exact if_pos (Option.isSome_iff_ne_none.2 hst)

theorem commandBase_of_not_buildsIndex {i : Instr} (h : ¬ BuildsIndex i) (s : State) :
    commandBase i s = s := by
  obtain hb | ⟨st, hi, hst, -⟩ := commandBase_cases i s
  · exact hb
  · exact absurd ⟨st, hst, hi⟩ h

/-- A command that does not build the index computes its result without it. -/
theorem commandResult_setIndex {i : Instr} (h : ¬ BuildsIndex i) (b : Bool) (table : RevIdx)
    (s : State) : commandResult i { s with built := b, revidx := table } = commandResult i s := by
  cases i with
  | crc32 _ | appendChecksum _ | wordAt _ | minimalWordAt _ | encode _ => rfl
  | decodeWord st =>
    have hst : styleDecode st = none := not_not.1 fun hne => h ⟨st, hne, .inl rfl⟩
    simp only [commandResult, hst]
  | decode st =>
    have hst : styleDecode st = none := not_not.1 fun hne => h ⟨st, hne, .inr rfl⟩
    simp only [commandResult, hst]

/-! ## The end of a command -/

theorem finish_next_index {r : Except ErrorKind (List Byte)} {s t : State}
    (h : finish r s = .next t) : t.built = s.built ∧ t.revidx = s.revidx := by
  obtain ⟨out, -, -, rfl⟩ | ⟨e, -, rfl⟩ := finish_next_cases h
  · exact ⟨finishOk_built out s, finishOk_revidx out s⟩
  · exact ⟨raiseError_built e s, raiseError_revidx e s⟩

theorem finish_setIndex {r : Except ErrorKind (List Byte)} {s t : State} (h : finish r s = .next t)
    (b : Bool) (table : RevIdx) :
    finish r { s with built := b, revidx := table } = .next { t with built := b, revidx := table } := by
  obtain ⟨out, rfl, hfit, rfl⟩ | ⟨e, rfl, rfl⟩ := finish_next_cases h
  · exact complete_of_fits hfit
  · rfl

/-! ## The obligation -/

theorem exec_index_of_buildsIndex {i : Instr} (hi : BuildsIndex i) {s t : State}
    (h : exec i s = .next t) :
    t.built = true ∧ t.revidx = if s.built then s.revidx else revTable s.wordlist := by
  rw [exec_eq_finish, commandBase_of_buildsIndex hi] at h
  exact finish_next_index h

theorem exec_index_of_not_buildsIndex {i : Instr} (hi : ¬ BuildsIndex i) {s t : State}
    (h : exec i s = .next t) : t.built = s.built ∧ t.revidx = s.revidx := by
  rw [exec_eq_finish, commandBase_of_not_buildsIndex hi] at h
  exact finish_next_index h

theorem exec_setIndex {i : Instr} (hi : ¬ BuildsIndex i) {s t : State} (h : exec i s = .next t)
    (b : Bool) (table : RevIdx) :
    exec i { s with built := b, revidx := table } = .next { t with built := b, revidx := table } := by
  rw [exec_eq_finish, commandBase_of_not_buildsIndex hi] at h ⊢
  rw [commandResult_setIndex hi]
  exact finish_setIndex h b table

/-- Settles O23: a command ends on the state of `commandBase`, whose index is built exactly for the
decoder commands with a valid style; the result of any other command does not depend on the index. -/
theorem buildOfReverseIndex : Obligations.BuildOfReverseIndex := by
  intro i s t h
  split
  next hi =>
    obtain ⟨hbuilt, htable⟩ := exec_index_of_buildsIndex hi h
    exact ⟨hbuilt, fun hs => by simp [htable, hs], fun hs => by simp [htable, hs]⟩
  next hi =>
    obtain ⟨hbuilt, htable⟩ := exec_index_of_not_buildsIndex hi h
    exact ⟨hbuilt, htable, exec_setIndex hi h⟩

end Sys2Proof.Proofs
end

section
/-! PROOF. Capacity (spec/42_checksum.md R146): the result of a command is computed without reading
BUF_CAP, and only its success checks that result against it. -/

namespace Sys2Proof.Proofs

open Sys2Proof.Machine Sys2Proof.Laws

/-! ## A command's result does not depend on the capacity -/

theorem commandResult_setBufCap (i : Instr) (cap : Option Nat) (s : State) :
    commandResult i { s with cfg := { s.cfg with bufCap := cap } } = commandResult i s := by
  cases i <;> rfl

/-- The build of the reverse index, where a command has one, leaves BUF_CAP and does not read it. -/
theorem commandBase_setBufCap (i : Instr) (cap : Option Nat) (s : State) :
    commandBase i { s with cfg := { s.cfg with bufCap := cap } } =
      { commandBase i s with cfg := { (commandBase i s).cfg with bufCap := cap } } := by
  cases i with
  | crc32 _ | appendChecksum _ | wordAt _ | minimalWordAt _ | encode _ => rfl
  | decodeWord st | decode st => cases h : styleDecode st <;> simp [commandBase, ensureBuilt, h]

/-! ## The end of a command, with and without a capacity -/

/-- The end of a command with unbounded buffers is a next state, and BUF_CAP only decides whether that
state is reached or refused. An error leaves OUT empty, which every capacity holds (R222). -/
theorem finish_capacity (r : Except ErrorKind (List Byte)) (s : State) :
    ∃ t, finish r { s with cfg := { s.cfg with bufCap := none } } = .next t ∧
      finish r s =
        if fits s.cfg.bufCap t.out.length then .next { t with cfg := s.cfg }
        else .refused .resultExceedsCapacity := by
  cases r with
  | ok out => exact ⟨finishOk out _, complete_of_fits (fits_none out.length), rfl⟩
  | error e => exact ⟨raiseError e _, rfl, (if_pos (fits_zero s.cfg.bufCap)).symm⟩

/-- What a command does with a capacity, told by what it does without one (R146). -/
theorem exec_capacity (i : Instr) (s : State) :
    ∃ t, exec i { s with cfg := { s.cfg with bufCap := none } } = .next t ∧
      exec i s =
        if fits s.cfg.bufCap t.out.length then .next { t with cfg := s.cfg }
        else .refused .resultExceedsCapacity := by
  rw [exec_eq_finish, exec_eq_finish, commandResult_setBufCap, commandBase_setBufCap]
  simpa only [commandBase_cfg] using finish_capacity (commandResult i s) (commandBase i s)

/-- Settles O18: a command is the end of a result that does not depend on BUF_CAP, and that end refuses
exactly a result that does not fit. -/
theorem capacityRefusal : Obligations.CapacityRefusal :=
  ⟨exec_capacity, rfl, fits_none⟩

end Sys2Proof.Proofs
end

section
/-! PROOF. The checksum bytes and the two checksum commands (spec/42_checksum.md R141 to R143). -/

namespace Sys2Proof.Proofs

open Sys2Proof.Machine Sys2Proof.Laws

/-! ## The checksum bytes -/

/-- Four bytes read with the first as the most significant give back the word they render (R51, R141). -/
theorem toNat_eq_bigEndian_value (c : Word32) :
    c.toNat = (c.extractLsb' 24 8).toNat * 2 ^ 24 + (c.extractLsb' 16 8).toNat * 2 ^ 16 +
      (c.extractLsb' 8 8).toNat * 2 ^ 8 + (c.extractLsb' 0 8).toNat := by
  have hc : c.toNat < 2 ^ 32 := c.isLt
  simp only [BitVec.extractLsb'_toNat, Nat.shiftRight_eq_div_pow]
  omega

/-- The checksum bytes of the empty string (R142). -/
theorem crcBytes_nil : crcBytes [] = [0x00, 0x00, 0x00, 0x00] := by decide

/-- The checksum bytes of the string 00, the value that the source gives (R140, R142). -/
theorem crcBytes_zero : crcBytes [0x00] = [0xD2, 0x02, 0xEF, 0x8D] := by decide

/-- Settles O28: the four bytes are the base-256 digits of the checksum, the highest first. -/
theorem checksumByteOrder : Obligations.ChecksumByteOrder :=
  ⟨crcBytes_zero, fun u => ⟨_, _, _, _, rfl, toNat_eq_bigEndian_value (crc32 u)⟩⟩

/-! ## The two commands -/

theorem decodeCmd_crc32 (ss : BitVec 2) : decodeCmd ((0#2 ++ ss) ++ 0x1#4) = .ok (.crc32 ss) := by
  obtain ⟨-, -, -, hdecode⟩ := Fields.crc32 ss
  exact hdecode

theorem decodeCmd_appendChecksum (ss : BitVec 2) :
    decodeCmd ((0#2 ++ ss) ++ 0x2#4) = .ok (.appendChecksum ss) := by
  obtain ⟨-, -, -, hdecode⟩ := Fields.appendChecksum ss
  exact hdecode

@[simp] theorem appendChecksum_length (u : List Byte) : (appendChecksum u).length = u.length + 4 := by
  rw [appendChecksum, List.length_append, crcBytes_length]

/-- Settles O25: CRC32 completes with the checksum bytes of IN, which are always four. -/
theorem crc32Command : Obligations.Crc32Command := by
  refine ⟨decodeCmd_crc32, fun ss s hfit => ?_, crcBytes_length, crcBytes_nil, crcBytes_zero⟩
  rw [exec_crc32]
  exact complete_of_fits hfit

/-- Settles O26: APPEND_CHECKSUM completes with four bytes more than IN, or is refused where those do
not fit. -/
theorem appendChecksumCommand : Obligations.AppendChecksumCommand := by
  refine ⟨decodeCmd_appendChecksum, fun ss s => ?_, crcBytes_nil,
    congrArg ([0x00] ++ ·) crcBytes_zero⟩
  rw [exec_appendChecksum, ← appendChecksum_length]
  split
  next hfit => exact complete_of_fits hfit
  next hfit => exact complete_of_not_fits hfit

end Sys2Proof.Proofs
end

section
/-! PROOF. The joined text of a list of words (spec/43_encoder.md R161): two runs of words are joined by one
separator, so the text of four-character words, cut at 5k, begins with the word k. -/

namespace Sys2Proof.Proofs

open Sys2Proof.Machine Sys2Proof.Laws

/-! ## Joining -/

@[simp] theorem joinWords_singleton (c : Byte) (w : List Byte) : joinWords c [w] = w := rfl

theorem joinWords_cons (c : Byte) (w : List Byte) {ws : List (List Byte)} (h : ws ≠ []) :
    joinWords c (w :: ws) = w ++ c :: joinWords c ws := by
  cases ws with
  | nil => exact absurd rfl h
  | cons v vs => rfl

theorem joinWords_append (c : Byte) {u v : List (List Byte)} (hu : u ≠ []) (hv : v ≠ []) :
    joinWords c (u ++ v) = joinWords c u ++ [c] ++ joinWords c v := by
  induction u with
  | nil => exact absurd rfl hu
  | cons w ws ih =>
    cases ws with
    | nil => simpa using joinWords_cons c w hv
    | cons x xs =>
      have hxs : x :: xs ≠ [] := List.cons_ne_nil x xs
      rw [List.cons_append, joinWords_cons c w (List.append_ne_nil_of_left_ne_nil hxs v), ih hxs,
        joinWords_cons c w hxs]
      simp

/-! ## Words of four characters -/

/-- A text of four-character words, with one more separator at its end, is five characters a word. -/
theorem joinWords_length_succ (c : Byte) {words : List (List Byte)} (h : words ≠ [])
    (hlen : ∀ w ∈ words, w.length = 4) : (joinWords c words).length + 1 = 5 * words.length := by
  induction words with
  | nil => exact absurd rfl h
  | cons w ws ih =>
    obtain ⟨hw, hws⟩ := List.forall_mem_cons.1 hlen
    cases ws with
    | nil => simp [hw]
    | cons x xs =>
      have hxs : x :: xs ≠ [] := List.cons_ne_nil x xs
      have hrest := ih hxs hws
      rw [joinWords_cons c w hxs, List.length_append, List.length_cons, hw, List.length_cons]
      omega

/-- The first k words and their separators are 5k characters; what follows is the text of the rest. -/
theorem drop_joinWords (c : Byte) {words : List (List Byte)} (hlen : ∀ w ∈ words, w.length = 4)
    {k : Nat} (hk : k < words.length) :
    (joinWords c words).drop (5 * k) = joinWords c (words.drop k) := by
  rcases Nat.eq_zero_or_pos k with rfl | hpos
  · rfl
  · have htake : words.take k ≠ [] := List.ne_nil_of_length_pos (by simp; omega)
    have hdrop : words.drop k ≠ [] := List.ne_nil_of_length_pos (by simp; omega)
    have hfirst : (joinWords c (words.take k) ++ [c]).length = 5 * k := by
      rw [List.length_append, List.length_singleton,
        joinWords_length_succ c htake fun w hw => hlen w (List.mem_of_mem_take hw),
        List.length_take, Nat.min_eq_left hk.le]
    calc (joinWords c words).drop (5 * k)
        = (joinWords c (words.take k ++ words.drop k)).drop (5 * k) := by rw [List.take_append_drop]
      _ = joinWords c (words.drop k) := by
        rw [joinWords_append c htake hdrop, List.drop_left' hfirst]

/-- The text from its word k on: the word, then the separator if another word follows. -/
theorem drop_joinWords_of_getElem? (c : Byte) {words : List (List Byte)}
    (hlen : ∀ w ∈ words, w.length = 4) {k : Nat} {w : List Byte} (hw : words[k]? = some w) :
    ∃ rest, (joinWords c words).drop (5 * k) = w ++ rest ∧
      (k + 1 < words.length → rest[0]? = some c) := by
  obtain ⟨hk, rfl⟩ := List.getElem?_eq_some_iff.1 hw
  rw [drop_joinWords c hlen hk, List.drop_eq_getElem_cons hk]
  by_cases hlast : words.drop (k + 1) = []
  · have hend : words.length ≤ k + 1 := List.drop_eq_nil_iff.1 hlast
    exact ⟨[], by rw [hlast]; simp, fun h => absurd h hend.not_gt⟩
  · exact ⟨_, joinWords_cons c _ hlast, fun _ => rfl⟩

/-- Settles O43: a run of k words and its separators is 5k characters long, so the word k and the
separator after it are the next five. -/
theorem joinedWords : Obligations.JoinedWords := by
  refine ⟨fun u => by simp, fun c => ⟨joinWords_singleton c, fun u v => joinWords_append c,
    fun words hne hlen => ⟨?_, fun k w hw => ?_⟩⟩⟩
  · exact Nat.eq_sub_of_add_eq (joinWords_length_succ c hne hlen)
  · obtain ⟨rest, hdrop, hsep⟩ := drop_joinWords_of_getElem? c hlen hw
    have hw4 : w.length = 4 := hlen w (List.mem_of_getElem? hw)
    constructor
    · rw [slice, hdrop, Nat.add_sub_cancel_left, List.take_left' hw4]
    · intro hk
      rw [← List.getElem?_drop, hdrop, List.getElem?_append_right hw4.le, hw4]
      exact hsep hk

end Sys2Proof.Proofs
end

section
/-! PROOF. ENCODE (spec/43_encoder.md R160, R162): it completes with the text of IN and its checksum in
the style of the command; the minimal text is two characters a byte. -/

namespace Sys2Proof.Proofs

open Sys2Proof.Machine Sys2Proof.Laws

/-! ## The texts of a buffer -/

theorem renderText_of_sep {st : Style} {c : Byte} (h : sep st = some c) (wl : Wordlist)
    (buf : List Byte) :
    renderText wl st buf = joinWords c (buf.map fun b => (wordAt wl b).chars) := by
  rw [renderText, h]

theorem renderText_minimal (wl : Wordlist) (buf : List Byte) :
    renderText wl .minimal buf = (buf.map fun b => minimalWordAt wl b).flatten := rfl

theorem renderText_length_of_sep {st : Style} {c : Byte} (h : sep st = some c) (wl : Wordlist)
    {buf : List Byte} (hne : buf ≠ []) : (renderText wl st buf).length + 1 = 5 * buf.length := by
  have hwords : buf.map (fun b => (wordAt wl b).chars) ≠ [] := mt List.map_eq_nil_iff.1 hne
  rw [renderText_of_sep h, joinWords_length_succ c hwords, List.length_map]
  exact List.forall_mem_map.2 fun b _ => chars_length _

theorem renderText_minimal_length (wl : Wordlist) (buf : List Byte) :
    (renderText wl .minimal buf).length = 2 * buf.length := by
  induction buf with
  | nil => rfl
  | cons b bs ih =>
    rw [renderText_minimal] at ih ⊢
    rw [List.map_cons, List.flatten_cons, List.length_append, ih, minimalWordAt_length,
      List.length_cons]
    omega

/-- The minimal codes of the first k bytes are 2k characters; what follows is the text of the rest. -/
theorem drop_renderText_minimal (wl : Wordlist) (buf : List Byte) (k : Nat) :
    (renderText wl .minimal buf).drop (2 * k) = renderText wl .minimal (buf.drop k) := by
  induction k generalizing buf with
  | zero => rfl
  | succ k ih =>
    cases buf with
    | nil => rfl
    | cons b bs => exact ih bs

theorem renderText_minimal_getElem? {wl : Wordlist} {buf : List Byte} {k : Nat} {b : Byte}
    (h : buf[k]? = some b) :
    (renderText wl .minimal buf)[2 * k]? = some (wordAt wl b).c0 ∧
      (renderText wl .minimal buf)[2 * k + 1]? = some (wordAt wl b).c3 := by
  obtain ⟨hk, rfl⟩ := List.getElem?_eq_some_iff.1 h
  have hdrop := drop_renderText_minimal wl buf k
  rw [List.drop_eq_getElem_cons hk] at hdrop
  constructor
  · rw [← Nat.add_zero (2 * k), ← List.getElem?_drop, hdrop]
    rfl
  · rw [← List.getElem?_drop, hdrop]
    rfl

/-- A well-formed WORDLIST holds lowercase letters only (R100 (b)). -/
theorem not_mem_chars_of_not_isLowerLetter {wl : Wordlist} (h : wl.wf = true) {c : Byte}
    (hc : isLowerLetter c = false) (i : Byte) : c ∉ (wordAt wl i).chars := by
  obtain ⟨hlower, -⟩ := wordlist_wf_entries h
  exact fun hmem => Bool.false_ne_true (hc.symm.trans (hlower i c hmem))

/-! ## The command -/

theorem decodeCmd_encode (ss : BitVec 2) : decodeCmd ((0#2 ++ ss) ++ 0x5#4) = .ok (.encode ss) := by
  obtain ⟨-, -, -, hdecode⟩ := Fields.encode ss
  exact hdecode

/-- All that ENCODE can do in a valid style: the text fits, and OUT and STATUS are all that changes. -/
theorem exec_encode_next_iff {style : BitVec 2} {st : Style} (h : styleDecode style = some st)
    {s t : State} : exec (.encode style) s = .next t ↔
      fits s.cfg.bufCap (renderText s.wordlist st (appendChecksum s.inBuf)).length = true ∧
        t = { s with out := renderText s.wordlist st (appendChecksum s.inBuf), status := 0x00 } := by
  rw [exec_encode, execEncode_some h]
  exact complete_next_iff

theorem renderText_appendChecksum_length_of_sep {st : Style} {c : Byte} (h : sep st = some c)
    (wl : Wordlist) (u : List Byte) :
    (renderText wl st (appendChecksum u)).length = 5 * u.length + 19 := by
  have hlen := appendChecksum_length u
  have hne : appendChecksum u ≠ [] := List.ne_nil_of_length_pos (by omega)
  have htext := renderText_length_of_sep h wl hne
  omega

theorem renderText_minimal_appendChecksum_length (wl : Wordlist) (u : List Byte) :
    (renderText wl .minimal (appendChecksum u)).length = 2 * u.length + 8 := by
  rw [renderText_minimal_length, appendChecksum_length]
  omega

/-- ENCODE in a style of full words, with room for the text (R160, R161). -/
theorem exec_encode_of_sep {style : BitVec 2} {st : Style} {c : Byte}
    (hst : styleDecode style = some st) (hc : sep st = some c) {s : State}
    (hfit : fits s.cfg.bufCap (5 * s.inBuf.length + 19) = true) :
    exec (.encode style) s = .next { s with
      out := joinWords c ((appendChecksum s.inBuf).map fun b => (wordAt s.wordlist b).chars)
      status := 0x00 } := by
  rw [← renderText_of_sep hc]
  rw [← renderText_appendChecksum_length_of_sep hc s.wordlist] at hfit
  exact (exec_encode_next_iff hst).2 ⟨hfit, rfl⟩

/-- ENCODE.minimal, with room for the text (R160, R162). -/
theorem exec_encode_minimal {s : State}
    (hfit : fits s.cfg.bufCap (2 * s.inBuf.length + 8) = true) :
    exec (.encode 0b10) s = .next { s with
      out := ((appendChecksum s.inBuf).map fun b => minimalWordAt s.wordlist b).flatten
      status := 0x00 } := by
  rw [← renderText_minimal_appendChecksum_length s.wordlist] at hfit
  exact (exec_encode_next_iff rfl).2 ⟨hfit, rfl⟩

/-- Settles O44: OUT is the minimal text of IN and its checksum, whose characters from 2k on are the code
of the byte k. -/
theorem minimalPositions : Obligations.MinimalPositions := by
  intro s t h
  obtain ⟨-, rfl⟩ := (exec_encode_next_iff (style := 0b10) rfl).1 h
  refine ⟨?_, fun k b hb => renderText_minimal_getElem? hb⟩
  exact (renderText_minimal_length _ _).trans (congrArg (2 * ·) (appendChecksum_length _))

/-! ## The texts of the empty payload and of 00 -/

/-- `able able able able`, and the same with another separator. -/
theorem joinWords_payload_nil (c : Byte) :
    joinWords c ((crcBytes []).map fun b => (wordAt defaultWordlist b).chars) =
      [0x61, 0x62, 0x6C, 0x65, c, 0x61, 0x62, 0x6C, 0x65, c, 0x61, 0x62, 0x6C, 0x65, c,
        0x61, 0x62, 0x6C, 0x65] := by
  obtain ⟨hable, -⟩ := agreesWithSource_iff.1 defaultWordlist_agreesWithSource
  simp only [crcBytes_nil, List.map_cons, List.map_nil, hable]
  rfl

/-- `aeaeaeae`. -/
theorem minimalWords_payload_nil :
    ((crcBytes []).map fun b => minimalWordAt defaultWordlist b).flatten =
      [0x61, 0x65, 0x61, 0x65, 0x61, 0x65, 0x61, 0x65] := by
  obtain ⟨hable, -⟩ := agreesWithSource_iff.1 defaultWordlist_agreesWithSource
  simp only [crcBytes_nil, List.map_cons, List.map_nil, minimalWordAt_of_chars hable]
  rfl

/-- `able tied also webs lung`. -/
theorem joinWords_payload_zero :
    joinWords 0x20 (([0x00] ++ crcBytes [0x00]).map fun b => (wordAt defaultWordlist b).chars) =
      [0x61, 0x62, 0x6C, 0x65, 0x20, 0x74, 0x69, 0x65, 0x64, 0x20, 0x61, 0x6C, 0x73, 0x6F, 0x20,
        0x77, 0x65, 0x62, 0x73, 0x20, 0x6C, 0x75, 0x6E, 0x67] := by
  rw [crcBytes_zero]
  exact renderText_standard_source defaultWordlist_agreesWithSource

/-- Settles O42: the four values of STYLE are the two of full words, whose text of n+4 words is 5n+19
characters, the minimal one with 2n+8, and InvalidStyle. -/
theorem encodeCommand : Obligations.EncodeCommand := by
  refine ⟨decodeCmd_encode, fun s => ⟨fun hfit => ⟨?_, ?_⟩, exec_encode_minimal, ?_⟩,
    fun wl i hwf => ⟨?_, ?_⟩, joinWords_payload_nil 0x20, joinWords_payload_nil 0x2D,
    minimalWords_payload_nil, joinWords_payload_zero⟩
  · exact exec_encode_of_sep (st := .standard) rfl rfl hfit
  · exact exec_encode_of_sep (st := .uri) rfl rfl hfit
  · exact exec_of_hasInvalidStyle (.inl rfl) s
  · exact not_mem_chars_of_not_isLowerLetter hwf (by decide) i
  · exact not_mem_chars_of_not_isLowerLetter hwf (by decide) i

end Sys2Proof.Proofs
end

section
/-! PROOF. The token parsers (spec/44_decoder.md R180, R181). A separator ends the token that `splitFrom`
has gathered, which stands in front of the text still to come; and the chunk k of a text is the first
chunk of what follows its first 2k characters. -/

namespace Sys2Proof.Proofs

open Sys2Proof.Machine Sys2Proof.Laws

/-! ## Splitting at the separators -/

@[simp] theorem splitFrom_nil (c : Byte) (cur : List Byte) : splitFrom c cur [] = [cur] := rfl

@[simp] theorem splitFrom_cons_self (c : Byte) (cur t : List Byte) :
    splitFrom c cur (c :: t) = cur :: splitFrom c [] t := if_pos rfl

theorem splitFrom_cons_of_ne {c x : Byte} (h : x ≠ c) (cur t : List Byte) :
    splitFrom c cur (x :: t) = splitFrom c (cur ++ [x]) t := if_neg h

theorem splitFrom_of_not_mem {c : Byte} {t : List Byte} (h : c ∉ t) (cur : List Byte) :
    splitFrom c cur t = [cur ++ t] := by
  induction t generalizing cur with
  | nil => simp
  | cons x t ih =>
    obtain ⟨hx, ht⟩ := List.ne_and_not_mem_of_not_mem_cons h
    rw [splitFrom_cons_of_ne (Ne.symm hx), ih ht, List.append_assoc, List.singleton_append]

theorem splitFrom_append_cons (c : Byte) (cur t u : List Byte) :
    splitFrom c cur (t ++ c :: u) = splitFrom c cur t ++ splitOn c u := by
  induction t generalizing cur with
  | nil => exact splitFrom_cons_self c cur u
  | cons x t ih =>
    by_cases hx : x = c
    · subst hx
      simp [ih]
    · rw [List.cons_append, splitFrom_cons_of_ne hx, splitFrom_cons_of_ne hx, ih]

theorem length_splitFrom (c : Byte) (cur t : List Byte) :
    (splitFrom c cur t).length = t.count c + 1 := by
  induction t generalizing cur with
  | nil => rfl
  | cons x t ih =>
    by_cases hx : x = c
    · subst hx
      simp [ih]
    · rw [splitFrom_cons_of_ne hx, ih, List.count_cons_of_ne hx]

theorem splitFrom_ne_nil (c : Byte) (cur t : List Byte) : splitFrom c cur t ≠ [] :=
  List.ne_nil_of_length_pos (by rw [length_splitFrom]; omega)

theorem not_mem_of_mem_splitFrom {c : Byte} {cur t w : List Byte} (hcur : c ∉ cur)
    (hw : w ∈ splitFrom c cur t) : c ∉ w := by
  induction t generalizing cur with
  | nil => exact List.mem_singleton.1 hw ▸ hcur
  | cons x t ih =>
    by_cases hx : x = c
    · subst hx
      rw [splitFrom_cons_self, List.mem_cons] at hw
      obtain rfl | hw := hw
      · exact hcur
      · exact ih List.not_mem_nil hw
    · rw [splitFrom_cons_of_ne hx] at hw
      exact ih (by simp [hcur, Ne.symm hx]) hw

theorem joinWords_splitFrom (c : Byte) (cur t : List Byte) :
    joinWords c (splitFrom c cur t) = cur ++ t := by
  induction t generalizing cur with
  | nil => simp
  | cons x t ih =>
    by_cases hx : x = c
    · subst hx
      rw [splitFrom_cons_self, joinWords_cons x cur (splitFrom_ne_nil x [] t), ih, List.nil_append]
    · rw [splitFrom_cons_of_ne hx, ih, List.append_assoc, List.singleton_append]

/-- The first check of a token, of any style (R188). -/
theorem decodeToken_of_length_ne {len : Nat} {t : List Byte} (h : t.length ≠ len) (fold : Bool)
    (wl : Wordlist) (table : RevIdx) :
    decodeToken fold wl table len t = .error .invalidWordLength := if_pos h

/-- Settles O49: each clause is that of `splitFrom` with nothing gathered yet, by induction on the
text. -/
theorem splitAtSeparators : Obligations.SplitAtSeparators := fun c t u =>
  ⟨fun h => splitFrom_of_not_mem h [], splitFrom_append_cons c [] t u, length_splitFrom c [] t,
    fun _ => not_mem_of_mem_splitFrom List.not_mem_nil, joinWords_splitFrom c [] t,
    decodeToken_of_length_ne (by decide)⟩

/-! ## Chunks of two -/

theorem chunks2_of_ne_nil {t : List Byte} (h : t ≠ []) :
    chunks2 t = t.take 2 :: chunks2 (t.drop 2) := by
  match t with
  | [_] => rfl
  | _ :: _ :: _ => rfl

theorem length_chunks2 (t : List Byte) : (chunks2 t).length = (t.length + 1) / 2 := by
  induction t using chunks2.induct with
  | case1 => rfl
  | case2 a => simp [chunks2]
  | case3 a b t ih =>
    rw [chunks2, List.length_cons, ih, List.length_cons, List.length_cons]
    omega

/-- The first k chunks are 2k characters; what follows are the chunks of the rest. -/
theorem drop_chunks2 (t : List Byte) (k : Nat) : (chunks2 t).drop k = chunks2 (t.drop (2 * k)) := by
  induction k generalizing t with
  | zero => rfl
  | succ k ih =>
    by_cases ht : t = []
    · subst ht
      rfl
    · rw [chunks2_of_ne_nil ht, List.drop_succ_cons, ih, List.drop_drop, Nat.mul_succ, Nat.add_comm]

theorem chunks2_getElem? {t : List Byte} {k : Nat} (hk : 2 * k < t.length) :
    (chunks2 t)[k]? = some ((t.drop (2 * k)).take 2) := by
  have hrest : t.drop (2 * k) ≠ [] := mt List.drop_eq_nil_iff.1 (Nat.not_le.2 hk)
  rw [← List.head?_drop, drop_chunks2, chunks2_of_ne_nil hrest, List.head?_cons]

/-- A chunk is cut at the end of the text. -/
theorem slice_min_length (t : List Byte) (a n : Nat) :
    slice t a (min (a + n) t.length) = (t.drop a).take n := by
  rw [slice, List.take_eq_take_iff, List.length_drop]
  omega

/-- Settles O50: the chunk k is the first chunk of the text from 2k on. -/
theorem chunksOfTwo : Obligations.ChunksOfTwo := by
  refine ⟨fun t => ⟨length_chunks2 t, fun k hk => ?_⟩, fun x => decodeToken_of_length_ne (by simp)⟩
  rw [slice_min_length, chunks2_getElem? (by omega)]

end Sys2Proof.Proofs
end

section
/-! PROOF. DECODE_WORD (spec/44_decoder.md R186, R188): on a well-formed WORDLIST the derived table finds
a word by its edge letters, so the checks of a token are told by the words alone. -/

namespace Sys2Proof.Proofs

open Sys2Proof.Machine Sys2Proof.Laws

/-! ## A token under the derived table -/

/-- The code that a token of length `len` presents to the look-up: its edge characters, folded or not
(R182). -/
def edgesOf (fold : Bool) (len : Nat) (t : List Byte) : List Byte :=
  [edge fold (charAt t 0), edge fold (charAt t (len - 1))]

/-- A 4-letter token whose folded middle letters are not those of the word (R185). -/
def MiddleDiffers (w : Byteword) (len : Nat) (t : List Byte) : Prop :=
  len = 4 ∧ (lower (charAt t 1) ≠ w.c1 ∨ lower (charAt t 2) ≠ w.c2)

/-- The look-up of a token finds the one index whose minimal code is the token's edges (R104, R125). -/
theorem lookup_edges_eq_value_iff {wl : Wordlist} (hwf : wl.wf = true) {fold : Bool} {len : Nat}
    {t : List Byte} {i : Byte} :
    lookup (revTable wl) (coord (edge fold (charAt t 0))) (coord (edge fold (charAt t (len - 1)))) =
      .value i ↔ minimalWordAt wl i = edgesOf fold len t := by
  rw [lookup_revTable_eq_value_iff hwf, coord_inj, coord_inj, edgesOf, minimalWordAt_eq_iff]

theorem decodeToken_of_no_word {wl : Wordlist} (hwf : wl.wf = true) {fold : Bool} {len : Nat}
    {t : List Byte} (hlen : t.length = len) (hno : ∀ i, minimalWordAt wl i ≠ edgesOf fold len t) :
    decodeToken fold wl (revTable wl) len t = .error .invalidWord := by
  obtain ⟨hne, -⟩ | ⟨-, -, herr⟩ | ⟨v, -, hvalue, -⟩ :=
    decodeToken_cases fold wl (revTable wl) len t
  · exact absurd hlen hne
  · exact herr
  · exact absurd ((lookup_edges_eq_value_iff hwf).1 hvalue) (hno v)

/-- A token with the edges of a word is decided by the middle letters of that word. -/
theorem decodeToken_of_edges {wl : Wordlist} (hwf : wl.wf = true) {fold : Bool} {len : Nat}
    {t : List Byte} {i : Byte} (hlen : t.length = len)
    (hedges : minimalWordAt wl i = edgesOf fold len t) :
    (MiddleDiffers (wordAt wl i) len t →
      decodeToken fold wl (revTable wl) len t = .error .invalidMiddleLetters) ∧
    (¬ MiddleDiffers (wordAt wl i) len t → decodeToken fold wl (revTable wl) len t = .ok i) := by
  have hfound := (lookup_edges_eq_value_iff hwf).2 hedges
  obtain ⟨hne, -⟩ | ⟨-, habsent, -⟩ | ⟨v, -, hvalue, hmiddle⟩ :=
    decodeToken_cases fold wl (revTable wl) len t
  · exact absurd hlen hne
  · exact absurd habsent (by simp [hfound])
  · obtain rfl : i = v := Lookup.value.inj (hfound.symm.trans hvalue)
    obtain ⟨hdiffers, hresult⟩ | ⟨hsame, hresult⟩ := hmiddle
    · exact ⟨fun _ => hresult, fun h => absurd hdiffers h⟩
    · exact ⟨fun h => absurd h hsame, fun _ => hresult⟩

/-! ## The command -/

/-- DECODE_WORD in a valid style, with the cache rule: the end of the token's result, on the state with
the index built (R122, R186). -/
theorem exec_decodeWord_eq_finish {style : BitVec 2} {st : Style} {s : State}
    (hst : styleDecode style = some st) (hcache : CacheOk s) :
    exec (.decodeWord style) s =
      finish ((decodeToken s.cfg.caseFoldEdges s.wordlist (revTable s.wordlist) (tokenLen st)
        s.inBuf).map ([·])) (afterBuild s) := by
  rw [exec_decodeWord, execDecodeWord_some hst, ensureBuilt_of_cacheOk hcache, afterBuild_revidx]

theorem exec_decodeWord_of_error {style : BitVec 2} {st : Style} {s : State} {e : ErrorKind}
    (hst : styleDecode style = some st) (hcache : CacheOk s)
    (h : decodeToken s.cfg.caseFoldEdges s.wordlist (revTable s.wordlist) (tokenLen st) s.inBuf =
      .error e) :
    exec (.decodeWord style) s =
      .next { afterBuild s with out := [], status := statusWord (errorCode e) } := by
  rw [exec_decodeWord_eq_finish hst hcache, h]
  rfl

theorem exec_decodeWord_of_ok {style : BitVec 2} {st : Style} {s : State} {i : Byte}
    (hst : styleDecode style = some st) (hcache : CacheOk s) (hfit : fits s.cfg.bufCap 1 = true)
    (h : decodeToken s.cfg.caseFoldEdges s.wordlist (revTable s.wordlist) (tokenLen st) s.inBuf =
      .ok i) :
    exec (.decodeWord style) s = .next { afterBuild s with out := [i], status := 0x00 } := by
  rw [exec_decodeWord_eq_finish hst hcache, h]
  exact complete_of_fits hfit

/-- Settles O51: the token of IN fails by its length, by edges that no word has, or by the middle letters
of the word that has its edges, and gives the index of that word otherwise. -/
theorem decodeWordCommand : Obligations.DecodeWordCommand := by
  intro s style st hst hwf hcache hfit t len edges error
  refine ⟨fun hlen => ?_, fun hlen hno => ?_, fun i hlen hedges => ?_⟩
  · exact exec_decodeWord_of_error hst hcache (decodeToken_of_length_ne hlen _ _ _)
  · exact exec_decodeWord_of_error hst hcache (decodeToken_of_no_word hwf hlen hno)
  · obtain ⟨hdiffers, hsame⟩ := decodeToken_of_edges hwf hlen hedges
    exact ⟨fun h => exec_decodeWord_of_error hst hcache (hdiffers h),
      fun h => exec_decodeWord_of_ok hst hcache hfit (hsame h)⟩

end Sys2Proof.Proofs
end

section
/-! PROOF. DECODE (spec/44_decoder.md R189 to R191): the tokens in text order up to the first that fails,
then the two checks of the buffer they give. -/

namespace Sys2Proof.Proofs

open Sys2Proof.Machine Sys2Proof.Laws

/-! ## The tokens of a text -/

section
variable {fold : Bool} {wl : Wordlist} {table : RevIdx} {len : Nat}

theorem decodeTokens_of_first_error {pre post : List (List Byte)} {t : List Byte} {e : ErrorKind}
    (hpre : ∀ u ∈ pre, ∃ v, decodeToken fold wl table len u = .ok v)
    (ht : decodeToken fold wl table len t = .error e) :
    decodeTokens fold wl table len (pre ++ t :: post) = .error e := by
  induction pre with
  | nil => exact decodeTokens_cons_error ht
  | cons u pre ih =>
    obtain ⟨⟨v, hv⟩, hrest⟩ := List.forall_mem_cons.1 hpre
    rw [List.cons_append, decodeTokens_cons_ok hv, ih hrest]
    rfl

theorem decodeTokens_of_forall₂ {toks : List (List Byte)} {buf : List Byte}
    (h : List.Forall₂ (fun t v => decodeToken fold wl table len t = .ok v) toks buf) :
    decodeTokens fold wl table len toks = .ok buf := by
  induction h with
  | nil => rfl
  | cons ht _ ih =>
    rw [decodeTokens_cons_ok ht, ih]
    rfl

end

/-! ## The buffer check -/

/-- The body that R189 cuts off. -/
theorem slice_zero (buf : List Byte) (n : Nat) : slice buf 0 n = buf.take n := rfl

/-- The trailer that R189 cuts off. -/
theorem slice_length (buf : List Byte) (n : Nat) : slice buf n buf.length = buf.drop n := by
  rw [slice, ← List.length_drop, List.take_length]

theorem checkBuffer_of_length_lt {buf : List Byte} (h : buf.length < 5) :
    checkBuffer buf = .error .invalidDecodedLength := if_pos h

theorem checkBuffer_of_ne {buf : List Byte} (hlen : 5 ≤ buf.length)
    (h : crcBytes (buf.take (buf.length - 4)) ≠ buf.drop (buf.length - 4)) :
    checkBuffer buf = .error .checksumMismatch := by
  obtain ⟨hshort, -⟩ | ⟨-, -, hr⟩ | ⟨-, hcrc, -⟩ := checkBuffer_cases buf
  · exact absurd hlen hshort.not_ge
  · exact hr
  · rw [slice_zero, slice_length] at hcrc
    exact absurd hcrc h

theorem checkBuffer_of_eq {buf : List Byte} (hlen : 5 ≤ buf.length)
    (h : crcBytes (buf.take (buf.length - 4)) = buf.drop (buf.length - 4)) :
    checkBuffer buf = .ok (buf.take (buf.length - 4)) := by
  obtain ⟨hshort, -⟩ | ⟨-, hcrc, -⟩ | ⟨-, -, hr⟩ := checkBuffer_cases buf
  · exact absurd hlen hshort.not_ge
  · rw [slice_zero, slice_length] at hcrc
    exact absurd h hcrc
  · exact hr

/-! ## The command -/

theorem decodeText_of_tokens_error {st : Style} {s : State} {e : ErrorKind}
    (h : decodeTokens s.cfg.caseFoldEdges s.wordlist s.revidx (tokenLen st) (tokens st s.inBuf) =
      .error e) : decodeText st s = .error e := by
  rw [decodeText, h]

theorem decodeText_of_tokens_ok {st : Style} {s : State} {buf : List Byte}
    (h : decodeTokens s.cfg.caseFoldEdges s.wordlist s.revidx (tokenLen st) (tokens st s.inBuf) =
      .ok buf) : decodeText st s = checkBuffer buf := by
  rw [decodeText, h]

/-- DECODE in a valid style, with the cache rule: the end of the text's result, on the state with the
index built (R122, R190). -/
theorem exec_decode_eq_finish {style : BitVec 2} {st : Style} {s : State}
    (hst : styleDecode style = some st) (hcache : CacheOk s) :
    exec (.decode style) s = finish (decodeText st (afterBuild s)) (afterBuild s) := by
  rw [exec_decode, execDecode_some hst, ensureBuilt_of_cacheOk hcache]

theorem exec_decode_of_error {style : BitVec 2} {st : Style} {s : State} {e : ErrorKind}
    (hst : styleDecode style = some st) (hcache : CacheOk s)
    (h : decodeText st (afterBuild s) = .error e) :
    exec (.decode style) s =
      .next { afterBuild s with out := [], status := statusWord (errorCode e) } := by
  rw [exec_decode_eq_finish hst hcache, h]
  rfl

theorem exec_decode_of_ok {style : BitVec 2} {st : Style} {s : State} {body : List Byte}
    (hst : styleDecode style = some st) (hcache : CacheOk s)
    (hfit : fits s.cfg.bufCap body.length = true) (h : decodeText st (afterBuild s) = .ok body) :
    exec (.decode style) s = .next { afterBuild s with out := body, status := 0x00 } := by
  rw [exec_decode_eq_finish hst hcache, h]
  exact complete_of_fits hfit

/-- Settles O53: the result of the text is that of its first failing token, or that of the check of the
buffer that all its tokens give. -/
theorem decodeOrderOfErrors : Obligations.DecodeOrderOfErrors := by
  intro s style st hst hcache one toks error
  refine ⟨fun pre post t e htoks hpre ht => ?_, fun buf hbuf => ?_⟩
  · refine exec_decode_of_error hst hcache (decodeText_of_tokens_error ?_)
    exact (congrArg _ htoks).trans (decodeTokens_of_first_error hpre ht)
  · have htext : decodeText st (afterBuild s) = checkBuffer buf :=
      decodeText_of_tokens_ok (decodeTokens_of_forall₂ hbuf)
    refine ⟨fun hlen => ?_, fun hlen hcrc => ?_, fun hlen hcrc hfit => ?_⟩
    · exact exec_decode_of_error hst hcache (htext.trans (checkBuffer_of_length_lt hlen))
    · exact exec_decode_of_error hst hcache (htext.trans (checkBuffer_of_ne hlen hcrc))
    · exact exec_decode_of_ok hst hcache hfit (htext.trans (checkBuffer_of_eq hlen hcrc))

end Sys2Proof.Proofs
end

section
/-! PROOF. The style multiplexer (spec/45_style_multiplexer.md R201): what each value of STYLE selects, and
the middle check as a function of the token length. -/

namespace Sys2Proof.Proofs

open Sys2Proof.Machine Sys2Proof.Laws

/-- The last sentence of R201. -/
theorem middleCheck_eq_true_iff (st : Style) : middleCheck st = true ↔ tokenLen st = 4 :=
  beq_iff_eq

/-- Settles O40: the decoding of STYLE and the rows of the table are values of the model's definitions; the
middle check is the comparison of the token length with 4. -/
theorem styleTable : Obligations.StyleTable :=
  ⟨rfl, rfl, rfl, styleDecode_eq_none.2 rfl,
    ⟨rfl, rfl, rfl, rfl⟩, ⟨rfl, rfl, rfl, rfl⟩, ⟨rfl, rfl, rfl, rfl⟩, middleCheck_eq_true_iff⟩

end Sys2Proof.Proofs
end

section
/-! PROOF. The effect of an error (spec/60_exceptions.md R222): a write to CMD that leaves STATUS other than
OK has ended in `raiseError`, on the state that the write left or on that state with the index built. -/

namespace Sys2Proof.Proofs

open Sys2Proof.Machine Sys2Proof.Laws

theorem finish_of_status_ne_ok {r : Except ErrorKind (List Byte)} {s t : State}
    (h : finish r s = .next t) (hne : t.status ≠ 0x00) : ∃ e, t = raiseError e s := by
  obtain ⟨out, -, -, rfl⟩ | ⟨e, -, ht⟩ := finish_next_cases h
  · exact absurd statusWord_okCode hne
  · exact ⟨e, ht⟩

theorem exec_of_status_ne_ok {i : Instr} {s t : State} (h : exec i s = .next t)
    (hne : t.status ≠ 0x00) : ∃ e, t = raiseError e (commandBase i s) :=
  finish_of_status_ne_ok (exec_eq_finish i s ▸ h) hne

/-- Only a decoder command past its style check raises its error on another state than the one with CMD
written (R122, R222). -/
theorem issue_of_status_ne_ok {c : Byte} {s t : State} (h : issue c s = .next t)
    (hne : t.status ≠ 0x00) :
    ∃ e, t = raiseError e { s with cmd := c } ∨
      ∃ st, (decodeCmd c = .ok (.decodeWord st) ∨ decodeCmd c = .ok (.decode st)) ∧
        styleDecode st ≠ none ∧ t = raiseError e (ensureBuilt { s with cmd := c }) := by
  cases hd : decodeCmd c with
  | error _ =>
    rw [issue_error hd] at h
    exact ⟨.illegalCommand, .inl (Host.Outcome.next.inj h).symm⟩
  | ok i =>
    rw [issue_ok hd] at h
    obtain ⟨e, ht⟩ := exec_of_status_ne_ok h hne
    obtain hb | ⟨st, hi, hst, hb⟩ := commandBase_cases i { s with cmd := c }
    · exact ⟨e, .inl (ht.trans (congrArg _ hb))⟩
    · exact ⟨e, .inr ⟨st, hi.imp (congrArg _) (congrArg _), hst, ht.trans (congrArg _ hb)⟩⟩

/-- Settles O16: the two cases of an error at the issue of a command, with `raiseError` and the build
written out field by field. -/
theorem errorEffect : Obligations.ErrorEffect := by
  intro s t c rest h ht hne
  rw [step_writeCmd h] at ht
  obtain ⟨e, rfl | ⟨st, hi, hst, rfl⟩⟩ := issue_of_status_ne_ok ht hne
  · exact ⟨e, rfl, .inl rfl⟩
  · exact ⟨e, rfl, .inr ⟨st, hi, hst, rfl⟩⟩

end Sys2Proof.Proofs
end

section
/-! PROOF. The encoder against the decoder (spec/30_encoding.md R70, R71, R77, R78): a CMD value is its
three fields side by side, and a command is its OP and its STYLE. -/

namespace Sys2Proof.Proofs

open Sys2Proof.Machine Sys2Proof.Laws

/-! ## From a command to its byte and back -/

theorem decodeCmd_encodeCmd (i : Instr) : decodeCmd (encodeCmd i) = .ok i := by
  have hfields : Fields.Statement i := by
    cases i with
    | crc32 style => exact Fields.crc32 style
    | appendChecksum style => exact Fields.appendChecksum style
    | wordAt style => exact Fields.wordAt style
    | minimalWordAt style => exact Fields.minimalWordAt style
    | encode style => exact Fields.encode style
    | decodeWord style => exact Fields.decodeWord style
    | decode style => exact Fields.decode style
  obtain ⟨-, -, -, hdecode⟩ := hfields
  exact hdecode

/-- A command is one byte, so what follows it is left (R77). -/
theorem decode_encode_append (i : Instr) (rest : List Byte) :
    decode (encode i ++ rest) = .ok (i, rest) := by
  simp [encode, decode, decodeCmd_encodeCmd]

/-! ## From a legal byte to its command and back -/

theorem decodeCmd_eq_ok_iff {c : Byte} {i : Instr} :
    decodeCmd c = .ok i ↔ rsvField c = 0 ∧ opMap (opField c) (styleField c) = some i := by
  constructor
  · intro h
    by_cases hrsv : rsvField c = 0
    · cases hop : opMap (opField c) (styleField c) with
      | none => exact nomatch h.symm.trans (decodeCmd_of_opMap_none hrsv hop)
      | some j =>
        obtain rfl : i = j := Except.ok.inj (h.symm.trans (decodeCmd_of_opMap_some hrsv hop))
        exact ⟨hrsv, rfl⟩
    · exact nomatch h.symm.trans (decodeCmd_of_rsv_ne hrsv)
  · rintro ⟨hrsv, hop⟩
    exact decodeCmd_of_opMap_some hrsv hop

/-- The opcode map of R71 loses neither of the two fields it is given. -/
theorem opMap_eq_some {op : BitVec 4} {st : BitVec 2} {i : Instr} (h : opMap op st = some i) :
    opOf i = op ∧ i.style = st := by
  revert op st i
  decide

/-- A byte is its three fields, RSV first (R70). -/
theorem append_fields (c : Byte) : (rsvField c ++ styleField c) ++ opField c = c := by
  revert c
  decide

theorem encodeCmd_of_decodeCmd {c : Byte} {i : Instr} (h : decodeCmd c = .ok i) :
    encodeCmd i = c := by
  obtain ⟨hrsv, hmap⟩ := decodeCmd_eq_ok_iff.1 h
  obtain ⟨hop, hstyle⟩ := opMap_eq_some hmap
  calc encodeCmd i = (rsvField c ++ styleField c) ++ opField c := by
        rw [encodeCmd, hop, hstyle, hrsv]
        rfl
    _ = c := append_fields c

/-- Settles O1: the fields of an encoded command are those of the command, and a byte that decodes has
RSV = 00 and the OP and STYLE of what it decodes to. -/
theorem decodeEncodeAgree : Obligations.DecodeEncodeAgree :=
  ⟨fun i rest _ => decode_encode_append i rest, fun _ _ => encodeCmd_of_decodeCmd⟩

/-! ## Values of the table -/

theorem decodeTableWord_encodeCmd (i : Instr) :
    decodeTableWord 8 (encodeCmd i).toNat = some i := by
  have hlt : (encodeCmd i).toNat < 256 := (encodeCmd i).isLt
  simp [decodeTableWord, hlt, decode, decodeCmd_encodeCmd]

theorem decodeTableWord_of_illegalCmd {c : Byte} (h : IllegalCmd c) :
    decodeTableWord 8 c.toNat = none := by
  obtain ⟨e, he⟩ := h.decodeCmd_error
  simp [decodeTableWord, decode, he]

/-- Settles O2: each legal value is the encoding of its command, and the last four are illegal by their
OP or their RSV. -/
theorem writtenWordsDecode : Obligations.WrittenWordsDecode :=
  ⟨decodeTableWord_encodeCmd (.crc32 0), decodeTableWord_encodeCmd (.crc32 3),
    decodeTableWord_encodeCmd (.appendChecksum 0), decodeTableWord_encodeCmd (.wordAt 0),
    decodeTableWord_encodeCmd (.minimalWordAt 0),
    decodeTableWord_encodeCmd (.encode 0), decodeTableWord_encodeCmd (.encode 1),
    decodeTableWord_encodeCmd (.encode 2), decodeTableWord_encodeCmd (.encode 3),
    decodeTableWord_encodeCmd (.decodeWord 0), decodeTableWord_encodeCmd (.decodeWord 1),
    decodeTableWord_encodeCmd (.decodeWord 2), decodeTableWord_encodeCmd (.decodeWord 3),
    decodeTableWord_encodeCmd (.decode 0), decodeTableWord_encodeCmd (.decode 1),
    decodeTableWord_encodeCmd (.decode 2), decodeTableWord_encodeCmd (.decode 3),
    decodeTableWord_of_illegalCmd (c := 0x00) (.inr (.inl rfl)),
    decodeTableWord_of_illegalCmd (c := 0x08) (.inr (.inr (by decide))),
    decodeTableWord_of_illegalCmd (c := 0x41) (.inl (by decide)),
    decodeTableWord_of_illegalCmd (c := 0x85) (.inl (by decide))⟩

end Sys2Proof.Proofs
end

section
/-! PROOF. What a command leaves alone (spec/10_state.md R33): it writes STATUS, OUT and the reverse index,
and a step writes WORDLIST and the parameters never. -/

namespace Sys2Proof.Proofs

open Sys2Proof.Machine Sys2Proof.Laws

/-! ## The frame of a command -/

/-- All that a command can do, with the state it ends on (R14, R225). -/
theorem exec_next_cases {i : Instr} {s t : State} (h : exec i s = .next t) :
    (∃ out, commandResult i s = .ok out ∧ fits s.cfg.bufCap out.length = true ∧
      t = finishOk out (commandBase i s)) ∨
    ∃ e, commandResult i s = .error e ∧ t = raiseError e (commandBase i s) := by
  rw [exec_eq_finish] at h
  simpa only [commandBase_cfg] using finish_next_cases h

/-- A command writes nothing but STATUS, OUT, REVIDX and BUILT. -/
theorem exec_frame {i : Instr} {s t : State} (h : exec i s = .next t) :
    t = { s with status := t.status, out := t.out, revidx := t.revidx, built := t.built } := by
  have hbase : commandBase i s = s ∨ commandBase i s = ensureBuilt s :=
    (commandBase_cases i s).imp_right fun ⟨_, _, _, hb⟩ => hb
  obtain ⟨out, -, -, rfl⟩ | ⟨e, -, rfl⟩ := exec_next_cases h <;>
    obtain hb | hb := hbase <;> rw [hb] <;> rfl

/-- A write to CMD writes nothing else but what a command writes. -/
theorem issue_frame {c : Byte} {s t : State} (h : issue c s = .next t) :
    t = { s with
      cmd := c, status := t.status, out := t.out, revidx := t.revidx, built := t.built } := by
  cases hd : decodeCmd c with
  | ok i => rw [issue_ok hd] at h; exact exec_frame h
  | error e => rw [issue_error hd] at h; cases h; rfl

/-- An issued value that is no decoder command with a valid style leaves the reverse index alone. -/
theorem issue_index {c : Byte} {s t : State} (h : issue c s = .next t) :
    (t.built = s.built ∧ t.revidx = s.revidx) ∨ ∃ i, decodeCmd c = .ok i ∧ BuildsIndex i := by
  cases hd : decodeCmd c with
  | error e => rw [issue_error hd] at h; cases h; exact .inl ⟨rfl, rfl⟩
  | ok i =>
    rw [issue_ok hd] at h
    by_cases hi : BuildsIndex i
    · exact .inr ⟨i, rfl, hi⟩
    · exact .inl (exec_index_of_not_buildsIndex (s := { s with cmd := c }) hi h)

/-! ## The writers of each piece of state -/

/-- A transaction that writes IN. -/
def WritesIn (op : HostOp) : Prop :=
  (∃ u, op = .writeIn u) ∨ (∃ k b, op = .writeInByte k b) ∨ ∃ n, op = .writeInLen n

/-- What a transaction writes: IN, the command registers, what the host holds, or the whole block. -/
theorem transact_frame {op : HostOp} {s t : State} (h : transact op s = .next t) :
    (WritesIn op ∧ t = { s with inBuf := t.inBuf, draws := t.draws }) ∨
    (∃ c, op = .writeCmd c ∧ issue c s = .next t) ∨
    t = { s with reply := t.reply, draws := t.draws } ∨
    (op = .reset ∧ t = resetBlock s) := by
  obtain ⟨u, rfl, -, rfl⟩ | ⟨k, b, rfl, -, rfl⟩ | ⟨n, rfl, -, u, d, -, rfl⟩ | ⟨c, i, rfl, -, -⟩ |
    ⟨c, e, rfl, -, -⟩ | ⟨b, rfl, rfl⟩ | ⟨r, v, d, rfl, rfl⟩ | ⟨rfl, rfl⟩ := transact_next_cases h
  · exact .inl ⟨.inl ⟨u, rfl⟩, rfl⟩
  · exact .inl ⟨.inr (.inl ⟨k, b, rfl⟩), rfl⟩
  · exact .inl ⟨.inr (.inr ⟨n, rfl⟩), rfl⟩
  · exact .inr (.inl ⟨c, rfl, h⟩)
  · exact .inr (.inl ⟨c, rfl, h⟩)
  · exact .inr (.inr (.inl rfl))
  · exact .inr (.inr (.inl rfl))
  · exact .inr (.inr (.inr ⟨rfl, rfl⟩))

/-- Settles O13: a transaction writes IN alone, or is a command with the frame of one, or changes only
what the host holds, or is a reset, which leaves WORDLIST and what stands outside the block. -/
theorem accessRights : Obligations.AccessRights := by
  intro s t op rest hs ht
  rw [step_transact hs] at ht
  obtain ⟨hop, hframe⟩ | ⟨c, rfl, hissue⟩ | hframe | ⟨rfl, rfl⟩ := transact_frame ht
  · rw [hframe]
    exact ⟨rfl, rfl, rfl, fun h => absurd rfl h, fun _ => .inr hop,
      fun h => absurd h (by simp), fun h => absurd h (by simp)⟩
  · have hindex := issue_index hissue
    rw [issue_frame hissue]
    refine ⟨rfl, rfl, rfl, fun _ => .inr ⟨c, rfl⟩, fun h => absurd rfl h, fun _ => .inr ⟨c, rfl⟩,
      fun hne => ?_⟩
    obtain ⟨hbuilt, htable⟩ | ⟨i, hd, st, hst, hi⟩ := hindex
    · exact absurd hne (by simp [hbuilt, htable])
    · exact .inr ⟨c, st, rfl, hst, hi.imp (hd.trans <| congrArg _ ·) (hd.trans <| congrArg _ ·)⟩
  · rw [hframe]
    exact ⟨rfl, rfl, rfl, fun h => absurd rfl h, fun h => absurd rfl h,
      fun h => absurd h (by simp), fun h => absurd h (by simp)⟩
  · exact ⟨rfl, rfl, rfl, fun _ => .inl rfl, fun _ => .inl rfl, fun _ => .inl rfl,
      fun _ => .inl rfl⟩

end Sys2Proof.Proofs
end

section
/-! PROOF. The invariant of the machine (spec/10_state.md section 6, spec/70_reset_and_hazards.md section 3):
each update of the state that a transaction makes keeps it. -/

namespace Sys2Proof.Proofs

open Sys2Proof.Machine Sys2Proof.Laws

/-! ## The updates of a transaction -/

/-- The invariant speaks of CMD and of nothing outside the block but the parameters. -/
theorem inv_setOutside {s : State} (h : s.Inv) (c : Byte) (ops : List HostOp)
    (v : Option HostValue) (d : Nat) :
    ({ s with cmd := c, host := ops, reply := v, draws := d } : State).Inv :=
  ⟨h.wordlist_wf, h.cache, h.status_legal, h.out_on_ok, h.in_wf, h.out_wf⟩

theorem inv_setIn {s : State} (h : s.Inv) {u : List Byte} (hfit : fits s.cfg.bufCap u.length = true) :
    ({ s with inBuf := u } : State).Inv :=
  ⟨h.wordlist_wf, h.cache, h.status_legal, h.out_on_ok, (memory_wf_iff _ _).2 hfit, h.out_wf⟩

theorem inv_ensureBuilt {s : State} (h : s.Inv) : (ensureBuilt s).Inv :=
  ⟨h.wordlist_wf, cacheOk_ensureBuilt h.cache, h.status_legal, h.out_on_ok, h.in_wf, h.out_wf⟩

theorem inv_commandBase {s : State} (h : s.Inv) (i : Instr) : (commandBase i s).Inv := by
  obtain hb | ⟨-, -, -, hb⟩ := commandBase_cases i s
  · rwa [hb]
  · rw [hb]
    exact inv_ensureBuilt h

theorem inv_finishOk {s : State} (h : s.Inv) {r : List Byte}
    (hfit : fits s.cfg.bufCap r.length = true) : (finishOk r s).Inv :=
  ⟨h.wordlist_wf, h.cache, isStatusCode_okCode.le_eight,
    fun hne => absurd statusWord_okCode hne, h.in_wf, (memory_wf_iff _ _).2 hfit⟩

theorem inv_raiseError {s : State} (h : s.Inv) (e : ErrorKind) : (raiseError e s).Inv :=
  ⟨h.wordlist_wf, h.cache, statusWord_errorCode_le e, fun _ => rfl, h.in_wf, memory_wf_nil _⟩

theorem inv_resetBlock {s : State} (h : s.Inv) : (resetBlock s).Inv :=
  ⟨h.wordlist_wf, nofun, Nat.zero_le 8, fun _ => rfl, memory_wf_nil _, memory_wf_nil _⟩

/-! ## Commands, transactions and steps -/

theorem exec_inv {i : Instr} {s t : State} (h : s.Inv) (ht : exec i s = .next t) : t.Inv := by
  have hbase := inv_commandBase h i
  obtain ⟨out, -, hfit, rfl⟩ | ⟨e, -, rfl⟩ := exec_next_cases ht
  · exact inv_finishOk hbase (by rwa [commandBase_cfg])
  · exact inv_raiseError hbase e

theorem transact_inv {op : HostOp} {s t : State} (h : s.Inv) (ht : transact op s = .next t) :
    t.Inv := by
  obtain ⟨u, -, hfit, rfl⟩ | ⟨k, b, -, -, rfl⟩ | ⟨n, -, hfit, u, d, rfl, rfl⟩ | ⟨c, i, -, -, hexec⟩ |
    ⟨c, e, -, -, rfl⟩ | ⟨b, -, rfl⟩ | ⟨r, v, d, -, rfl⟩ | ⟨-, rfl⟩ := transact_next_cases ht
  · exact inv_setIn h hfit
  · exact inv_setIn h (by rw [List.length_set]; exact (memory_wf_iff _ _).1 h.in_wf)
  · exact inv_setOutside (inv_setIn h hfit) s.cmd s.host s.reply d
  · exact exec_inv (inv_setOutside h c s.host s.reply s.draws) hexec
  · exact inv_raiseError (inv_setOutside h c s.host s.reply s.draws) .illegalCommand
  · exact h
  · exact inv_setOutside h s.cmd s.host (some v) d
  · exact inv_resetBlock h

/-- Settles O14: each update that a transaction makes keeps the invariant; a result reaches OUT only
where it fits, and an error empties OUT. -/
theorem stepKeepsInvariant : Obligations.StepKeepsInvariant := by
  intro s t h ht
  obtain ⟨-, rfl⟩ | ⟨op, rest, -, hop⟩ := step_next_cases ht
  · exact h
  · exact transact_inv (inv_setOutside h s.cmd rest s.reply s.draws) hop

/-- Settles O15: the default WORDLIST is well-formed, the index is not built, and STATUS, IN and OUT are
empty. -/
theorem resetHasInvariant : Obligations.ResetHasInvariant :=
  ⟨defaultWordlist_wf, nofun, Nat.zero_le 8, fun _ => rfl, memory_wf_nil _, memory_wf_nil _⟩

end Sys2Proof.Proofs
end

section
/-! PROOF. The host port (spec/10_state.md R24 to R27, R33; spec/20_memory.md R53 to R55): what each
transaction answers, and which of them stop. -/

namespace Sys2Proof.Proofs

open Sys2Proof.Machine Sys2Proof.Laws

/-! ## The writes of IN -/

theorem writeIn_of_fits {u : List Byte} {s : State} (h : fits s.cfg.bufCap u.length = true) :
    writeIn u s = .next { s with inBuf := u } := if_pos h

theorem writeIn_eq_refused_iff {u : List Byte} {s : State} :
    writeIn u s = .refused .inputExceedsCapacity ↔ fits s.cfg.bufCap u.length = false := by
  by_cases hfit : fits s.cfg.bufCap u.length = true <;> simp [writeIn, hfit]

theorem writeInByte_of_lt {k : Nat} {s : State} (h : k < s.inBuf.length) (b : Byte) :
    writeInByte k b s = .next { s with inBuf := s.inBuf.set k b } := if_pos h

theorem writeInByte_eq_fault_iff {k : Nat} {b : Byte} {s : State} :
    writeInByte k b s = .fault .inIndexOutOfRange ↔ s.inBuf.length ≤ k := by
  by_cases hk : k < s.inBuf.length <;> simp [writeInByte, hk, Nat.not_lt.1]

/-- What IN holds after a write of IN_LEN: the bytes that stay inside, then the free ones (log entry 7). -/
def resizedIn (n : Nat) (s : State) : List Byte :=
  s.inBuf.take n ++ (List.range (n - s.inBuf.length)).map fun k => Config.freeByte (s.draws + k)

theorem resizedIn_length (n : Nat) (s : State) : (resizedIn n s).length = n := by
  simp only [resizedIn, List.length_append, List.length_take, List.length_map, List.length_range]
  omega

theorem resizedIn_getElem? {n k : Nat} {s : State} (hn : k < n) (hk : k < s.inBuf.length) :
    (resizedIn n s)[k]? = s.inBuf[k]? := by
  have hkept : k < (s.inBuf.take n).length := by rw [List.length_take]; omega
  rw [resizedIn, List.getElem?_append_left hkept, List.getElem?_take_of_lt hn]

theorem writeInLen_of_fits {n : Nat} {s : State} (h : fits s.cfg.bufCap n = true) :
    writeInLen n s = .next { s with
      inBuf := resizedIn n s, draws := s.draws + (n - s.inBuf.length) } := if_pos h

theorem writeInLen_eq_refused_iff {n : Nat} {s : State} :
    writeInLen n s = .refused .inputExceedsCapacity ↔ fits s.cfg.bufCap n = false := by
  by_cases hfit : fits s.cfg.bufCap n = true <;> simp [writeInLen, hfit]

/-! ## The reads of the two buffers -/

theorem readHost_inByte_of_some {s : State} {k : Nat} {b : Byte} (h : s.inBuf[k]? = some b) :
    readHost (.inByte k) s = .next (answer (.byte b) s) := by simp [readHost, h]

theorem readHost_inByte_eq_fault_iff {s : State} {k : Nat} :
    readHost (.inByte k) s = .fault .inIndexOutOfRange ↔ s.inBuf.length ≤ k := by
  rw [← List.getElem?_eq_none_iff]
  cases h : s.inBuf[k]? <;> simp [readHost, h]

theorem readHost_outByte_of_some {s : State} {k : Nat} {b : Byte} (h : s.out[k]? = some b) :
    readHost (.outByte k) s = .next (answer (.byte b) s) := by simp [readHost, readOutByte, h]

theorem readHost_outByte_of_none {s : State} {k : Nat} (h : s.out[k]? = none) :
    readHost (.outByte k) s =
      .next (answer (.byte (Config.freeByte s.draws)) { s with draws := s.draws + 1 }) := by
  simp [readHost, readOutByte, h]

/-- STATUS with [7:4] cleared (R25). -/
theorem statusRead_eq_and (status : Byte) : statusRead status = status &&& 0x0F := by
  revert status
  decide

/-! ## The writes of CMD -/

/-- A step that issues a legal value runs its command (R55). -/
theorem step_writeCmd_ok {s : State} {c : Byte} {rest : List HostOp} {i : Instr}
    (h : s.host = .writeCmd c :: rest) (hd : decodeCmd c = .ok i) :
    step s = exec i { s with host := rest, cmd := c } := by
  rw [step_writeCmd h, issue_ok hd]

theorem finish_ne_fault (r : Except ErrorKind (List Byte)) (s : State) (f : Fault) :
    finish r s ≠ .fault f := by
  cases r with
  | error e => exact nofun
  | ok out =>
    rw [finish_ok, complete]
    split <;> exact nofun

theorem issue_ne_fault (c : Byte) (s : State) (f : Fault) : issue c s ≠ .fault f := by
  cases hd : decodeCmd c with
  | ok i => rw [issue_ok hd, exec_eq_finish]; exact finish_ne_fault _ _ f
  | error e => rw [issue_error hd]; exact nofun

/-! ## The obligations -/

/-- Settles O5: the transaction that `withFetchWord` puts first is a write of the command's own byte. -/
theorem stepRunsDecodedCommand : Obligations.StepRunsDecodedCommand := by
  refine ⟨fun s c rest i => step_writeCmd_ok, fun s i => ?_⟩
  have hword : (s.withFetchWord 8 (encodeCmd i).toNat).host = .writeCmd (encodeCmd i) :: s.host := by
    rw [withFetchWord_host, BitVec.ofNat_toNat, BitVec.setWidth_eq]
  exact step_writeCmd_ok hword (decodeCmd_encodeCmd i)

/-- Settles O6: a step takes the first transaction of the list and leaves the rest. -/
theorem hostWritesInThenCommand : Obligations.HostWritesInThenCommand := by
  refine ⟨fun s t c i rest hs hd hfit => ?_, fun s => step_idle⟩
  refine ⟨_, (step_transact hs).trans (writeIn_of_fits hfit), rfl, ?_⟩
  exact step_writeCmd_ok rfl hd

/-- Settles O7: the byte write sets one byte, and the length write keeps the first bytes. -/
theorem hostWritesPartOfIn : Obligations.HostWritesPartOfIn := by
  refine ⟨fun s k b rest hs hk => ?_, fun s n rest hs hfit => ?_⟩
  · exact (step_transact hs).trans (writeInByte_of_lt (s := { s with host := rest }) hk b)
  · refine ⟨_, (step_transact hs).trans (writeInLen_of_fits hfit), rfl, resizedIn_length n _, ?_⟩
    exact fun k => resizedIn_getElem?

/-- Settles O8: each access is told by the one check it makes, and those without a check answer. -/
theorem hostAccessStops : Obligations.HostAccessStops := by
  intro s op rest hs
  rw [step_transact hs]
  cases op with
  | writeIn u => exact (writeIn_eq_refused_iff (s := { s with host := rest })).symm
  | writeInByte k b => exact (writeInByte_eq_fault_iff (s := { s with host := rest })).symm
  | writeInLen n => exact (writeInLen_eq_refused_iff (s := { s with host := rest })).symm
  | writeCmd c => exact issue_ne_fault c _
  | writeStatus b => exact ⟨_, rfl⟩
  | reset => exact ⟨_, rfl⟩
  | read r =>
    cases r with
    | cmd | status | inLen | outLen | outByte k => exact ⟨_, rfl⟩
    | inByte k => exact (readHost_inByte_eq_fault_iff (s := { s with host := rest })).symm

/-- Settles O9: a read that answers has changed what the host holds and nothing more. -/
theorem hostReadsHaveNoSideEffect : Obligations.HostReadsHaveNoSideEffect := by
  intro s t r rest hs ht
  rw [step_transact hs] at ht
  obtain ⟨v, d, rfl⟩ := readHost_next_cases ht
  rfl

/-- Settles O10: each read answers the register, the length or the byte it names; past the end of OUT it
draws one free byte. -/
theorem hostReadAnswers : Obligations.HostReadAnswers := by
  intro s r rest hs
  have hstep : step s = readHost r { s with host := rest } := step_transact hs
  cases r with
  | cmd | inLen | outLen => exact hstep
  | status =>
    rw [← statusRead_eq_and]
    exact hstep
  | inByte k => exact fun b hb => hstep.trans (readHost_inByte_of_some (s := { s with host := rest }) hb)
  | outByte k =>
    refine ⟨fun b hb => ?_, fun hk => ⟨Config.freeByte s.draws, ?_⟩⟩
    · exact hstep.trans (readHost_outByte_of_some (s := { s with host := rest }) hb)
    · have hnone : s.out[k]? = none := List.getElem?_eq_none hk
      exact hstep.trans (readHost_outByte_of_none (s := { s with host := rest }) hnone)

/-- Settles O12: the values of `State.reset`, and those of `resetBlock` on the state that is left of the
list of transactions. -/
theorem resetValues : Obligations.ResetValues := by
  refine ⟨⟨rfl, rfl, rfl, rfl, rfl, rfl⟩, fun s rest hs => ?_⟩
  exact ⟨resetBlock { s with host := rest }, step_transact hs, rfl⟩

end Sys2Proof.Proofs
end

section
/-! PROOF. Completion and repetition of a command (spec/70_reset_and_hazards.md R259;
spec/60_exceptions.md R224): with unbounded buffers nothing is refused, and a command run again finds the
index built and writes the result that stands. -/

namespace Sys2Proof.Proofs

open Sys2Proof.Machine Sys2Proof.Laws

/-! ## Completion -/

theorem exec_completes (i : Instr) {s : State} (h : s.cfg.bufCap = none) :
    ∃ t, exec i s = .next t := by
  obtain ⟨t, -, hexec⟩ := exec_capacity i s
  exact ⟨_, hexec.trans (if_pos (by rw [h, fits_none]))⟩

/-- Settles O17: only a result that does not fit BUF_CAP is refused, and every result fits `none`. -/
theorem everyCommandCompletes : Obligations.EveryCommandCompletes :=
  fun i _ => exec_completes i

theorem issue_completes (c : Byte) {s : State} (h : s.cfg.bufCap = none) :
    ∃ t, issue c s = .next t := by
  cases hd : decodeCmd c with
  | ok i => rw [issue_ok hd]; exact exec_completes i h
  | error e => exact ⟨_, issue_error hd⟩

/-! ## Repetition -/

/-- A command reads no OUT and no STATUS. -/
theorem commandResult_setOutStatus (i : Instr) (u : List Byte) (b : Byte) (s : State) :
    commandResult i { s with out := u, status := b } = commandResult i s := by
  cases i <;> rfl

theorem commandBase_setOutStatus (i : Instr) (u : List Byte) (b : Byte) (s : State) :
    commandBase i { s with out := u, status := b } =
      { commandBase i s with out := u, status := b } := by
  by_cases hi : BuildsIndex i
  · simp only [commandBase_of_buildsIndex hi, ensureBuilt]
  · simp only [commandBase_of_not_buildsIndex hi]

theorem commandBase_commandBase (i : Instr) (s : State) :
    commandBase i (commandBase i s) = commandBase i s := by
  by_cases hi : BuildsIndex i
  · simp only [commandBase_of_buildsIndex hi, ensureBuilt_ensureBuilt]
  · simp only [commandBase_of_not_buildsIndex hi]

/-- The result of a command is the same once the index is built (R122, R124). -/
theorem commandResult_commandBase (i : Instr) (s : State) :
    commandResult i (commandBase i s) = commandResult i s := by
  obtain hb | ⟨st, rfl | rfl, -, hb⟩ := commandBase_cases i s <;> rw [hb] <;> rfl

/-- A command on the state that its own success or error has left. -/
theorem exec_commandBase (i : Instr) (u : List Byte) (b : Byte) (s : State) :
    exec i { commandBase i s with out := u, status := b } =
      finish (commandResult i s) { commandBase i s with out := u, status := b } := by
  rw [exec_eq_finish, commandResult_setOutStatus, commandResult_commandBase,
    commandBase_setOutStatus, commandBase_commandBase]

/-- Settles O24: a command is `finish` of a result that it does not change, on a state that it does not
build twice. -/
theorem commandRepeated : Obligations.CommandRepeated := by
  intro i s t h
  obtain ⟨out, hr, hfit, rfl⟩ | ⟨e, hr, rfl⟩ := exec_next_cases h
  · have hfit' : fits (finishOk out (commandBase i s)).cfg.bufCap out.length = true := by
      rwa [finishOk_cfg, commandBase_cfg]
    calc exec i (finishOk out (commandBase i s))
        = finish (.ok out) (finishOk out (commandBase i s)) := hr ▸ exec_commandBase i _ _ s
      _ = .next (finishOk out (commandBase i s)) := complete_of_fits hfit'
  · calc exec i (raiseError e (commandBase i s))
        = finish (.error e) (raiseError e (commandBase i s)) := hr ▸ exec_commandBase i _ _ s
      _ = .next (raiseError e (commandBase i s)) := rfl

end Sys2Proof.Proofs
end

section
/-! PROOF. Transparency of the cache (spec/41_reverse_index.md R124): two states that differ in REVIDX and
BUILT alone, both keeping the cache rule, take every step alike. -/

namespace Sys2Proof.Proofs

open Sys2Proof.Machine Sys2Proof.Laws

/-- Two states that the host cannot tell apart, each keeping the cache rule. -/
def CacheTwins (s t : State) : Prop := SameButCache s t ∧ CacheOk s ∧ CacheOk t

/-- The twin of a state is that state with another cache. -/
theorem cacheTwins_iff {s t : State} : CacheTwins s t ↔
    ∃ b table, t = { s with built := b, revidx := table } ∧ CacheOk s ∧ CacheOk t := by
  constructor
  · rintro ⟨hst, hs, ht⟩
    exact ⟨t.built, t.revidx, Eq.symm hst, hs, ht⟩
  · rintro ⟨b, table, rfl, hs, ht⟩
    exact ⟨rfl, hs, ht⟩

theorem agreeButCache_next_iff {s t : State} :
    AgreeButCache (.next s) (.next t) ↔ CacheTwins s t := Iff.rfl

/-- All that two outcomes that agree can be. -/
theorem agreeButCache_cases {a b : Host.Outcome State Fault Refusal} (h : AgreeButCache a b) :
    (∃ s t, a = .next s ∧ b = .next t ∧ CacheTwins s t) ∨
    (∃ r, a = .fault r ∧ b = .fault r) ∨ ∃ r, a = .refused r ∧ b = .refused r := by
  unfold AgreeButCache at h
  split at h
  · exact .inl ⟨_, _, rfl, rfl, h⟩
  · exact .inr (.inl ⟨_, rfl, by rw [h]⟩)
  · exact .inr (.inr ⟨_, rfl, by rw [h]⟩)
  · exact h.elim

/-! ## Updates and commands -/

theorem CacheTwins.sameOperands {s t : State} (h : CacheTwins s t) : SameOperands s t := by
  obtain ⟨b, table, rfl, hs, ht⟩ := cacheTwins_iff.1 h
  exact ⟨rfl, rfl, rfl, hs, ht⟩

theorem CacheTwins.setCmd {s t : State} (h : CacheTwins s t) (c : Byte) :
    CacheTwins { s with cmd := c } { t with cmd := c } := by
  obtain ⟨b, table, rfl, hs, ht⟩ := cacheTwins_iff.1 h
  exact ⟨rfl, hs, ht⟩

theorem CacheTwins.setHost {s t : State} (h : CacheTwins s t) (ops : List HostOp) :
    CacheTwins { s with host := ops } { t with host := ops } := by
  obtain ⟨b, table, rfl, hs, ht⟩ := cacheTwins_iff.1 h
  exact ⟨rfl, hs, ht⟩

theorem CacheTwins.commandBase {s t : State} (h : CacheTwins s t) (i : Instr) :
    CacheTwins (commandBase i s) (commandBase i t) := by
  by_cases hi : BuildsIndex i
  · obtain ⟨b, table, rfl, hs, ht⟩ := cacheTwins_iff.1 h
    rw [commandBase_of_buildsIndex hi, commandBase_of_buildsIndex hi]
    exact ⟨rfl, cacheOk_ensureBuilt hs, cacheOk_ensureBuilt ht⟩
  · rwa [commandBase_of_not_buildsIndex hi, commandBase_of_not_buildsIndex hi]

theorem CacheTwins.raiseError {s t : State} (h : CacheTwins s t) (e : ErrorKind) :
    CacheTwins (raiseError e s) (raiseError e t) := by
  obtain ⟨b, table, rfl, hs, ht⟩ := cacheTwins_iff.1 h
  exact ⟨rfl, hs, ht⟩

theorem CacheTwins.finishOk {s t : State} (h : CacheTwins s t) (r : List Byte) :
    CacheTwins (finishOk r s) (finishOk r t) := by
  obtain ⟨b, table, rfl, hs, ht⟩ := cacheTwins_iff.1 h
  exact ⟨rfl, hs, ht⟩

/-- The end of a command reads nothing of the cache. -/
theorem CacheTwins.finish {s t : State} (h : CacheTwins s t)
    (r : Except ErrorKind (List Byte)) :
    AgreeButCache (finish r s) (finish r t) := by
  have hcfg : s.cfg = t.cfg := h.sameOperands.cfg
  cases r with
  | error e => exact agreeButCache_next_iff.2 (h.raiseError e)
  | ok out =>
    rw [finish_ok, finish_ok]
    by_cases hfit : fits s.cfg.bufCap out.length = true
    · rw [complete_of_fits hfit, complete_of_fits (hcfg ▸ hfit)]
      exact agreeButCache_next_iff.2 (h.finishOk out)
    · rw [complete_of_not_fits hfit, complete_of_not_fits (hcfg ▸ hfit)]
      exact rfl

theorem CacheTwins.exec {s t : State} (h : CacheTwins s t) (i : Instr) :
    AgreeButCache (exec i s) (exec i t) := by
  rw [exec_eq_finish, exec_eq_finish, h.sameOperands.commandResult_eq]
  exact (h.commandBase i).finish _

theorem CacheTwins.issue {s t : State} (h : CacheTwins s t) (c : Byte) :
    AgreeButCache (issue c s) (issue c t) := by
  cases hd : decodeCmd c with
  | ok i =>
    rw [issue_ok hd, issue_ok hd]
    exact (h.setCmd c).exec i
  | error e =>
    rw [issue_error hd, issue_error hd]
    exact agreeButCache_next_iff.2 ((h.setCmd c).raiseError .illegalCommand)

/-! ## Transactions and runs -/

theorem CacheTwins.readHost {s t : State} (h : CacheTwins s t) (r : HostRead) :
    AgreeButCache (readHost r s) (readHost r t) := by
  obtain ⟨b, table, rfl, hs, ht⟩ := cacheTwins_iff.1 h
  cases r with
  | cmd | status | inLen | outLen => exact ⟨rfl, hs, ht⟩
  | inByte k =>
    simp only [Machine.readHost]
    cases s.inBuf[k]? with
    | some v => exact ⟨rfl, hs, ht⟩
    | none => exact rfl
  | outByte k =>
    simp only [Machine.readHost, readOutByte]
    cases s.out[k]? with
    | some v => exact ⟨rfl, hs, ht⟩
    | none => exact ⟨rfl, hs, ht⟩

theorem CacheTwins.transact {s t : State} (h : CacheTwins s t) (op : HostOp) :
    AgreeButCache (transact op s) (transact op t) := by
  cases op with
  | writeCmd c => exact h.issue c
  | read r => exact h.readHost r
  | writeStatus b => exact agreeButCache_next_iff.2 h
  | reset =>
    obtain ⟨b, table, rfl, hs, ht⟩ := cacheTwins_iff.1 h
    exact ⟨rfl, nofun, nofun⟩
  | writeIn _ | writeInByte _ _ | writeInLen _ =>
    obtain ⟨b, table, rfl, hs, ht⟩ := cacheTwins_iff.1 h
    simp only [Machine.transact, writeIn, writeInByte, writeInLen]
    split
    · exact ⟨rfl, hs, ht⟩
    · exact rfl

theorem CacheTwins.step {s t : State} (h : CacheTwins s t) :
    AgreeButCache (step s) (step t) := by
  obtain ⟨b, table, ht, -⟩ := cacheTwins_iff.1 h
  have hhost : t.host = s.host := by rw [ht]
  cases hh : s.host with
  | nil =>
    rw [step_idle hh, step_idle (hhost.trans hh)]
    exact agreeButCache_next_iff.2 h
  | cons op rest =>
    rw [step_transact hh, step_transact (hhost.trans hh)]
    exact (h.setHost rest).transact op

/-- Settles O20: by induction on the steps, twins stay twins, or stop alike. -/
theorem cacheNeverShows : Obligations.CacheNeverShows := by
  intro n s t hst hs ht
  have h : CacheTwins s t := ⟨hst, hs, ht⟩
  clear hst hs ht
  induction n generalizing s t with
  | zero => exact agreeButCache_next_iff.2 h
  | succ n ih =>
    obtain ⟨s', t', hs, ht, h'⟩ | ⟨r, hs, ht⟩ | ⟨r, hs, ht⟩ := agreeButCache_cases h.step
    · rw [run_of_next n hs, run_of_next n ht]
      exact ih s' t' h'
    · rw [run_of_fault n hs, run_of_fault n ht]
      exact rfl
    · rw [run_of_refused n hs, run_of_refused n ht]
      exact rfl

end Sys2Proof.Proofs
end

section
/-! PROOF. Runs of pairs (IN value, CMD value) (spec/70_reset_and_hazards.md R259, R260): a pair is two steps,
the write of IN and the issue of the command, and leaves to the next pair nothing that it reads. -/

namespace Sys2Proof.Proofs

open Sys2Proof.Machine Sys2Proof.Laws

/-! ## One pair -/

theorem run_succ_next_iff {n : Nat} {s t : State} : Sys2Proof.core.run (n + 1) s = .next t ↔
    ∃ s', step s = .next s' ∧ Sys2Proof.core.run n s' = .next t := by
  cases h : step s with
  | next s' => rw [run_of_next n h]; simp
  | fault r => rw [run_of_fault n h]; simp
  | refused r => rw [run_of_refused n h]; simp

theorem hostPairs_cons (p : List Byte × Byte) (pairs : List (List Byte × Byte)) :
    hostPairs (p :: pairs) = .writeIn p.1 :: .writeCmd p.2 :: hostPairs pairs := rfl

/-- The state in which the command of a pair is issued. -/
def pairOperand (s : State) (u : List Byte) (rest : List HostOp) : State :=
  { s with host := rest, inBuf := u }

theorem writeIn_next_iff {u : List Byte} {s t : State} : writeIn u s = .next t ↔
    fits s.cfg.bufCap u.length = true ∧ t = { s with inBuf := u } := by
  by_cases hfit : fits s.cfg.bufCap u.length = true
  · simp [writeIn_of_fits hfit, hfit, eq_comm]
  · simp [writeIn, hfit]

/-- The two steps of a pair, and the run that follows them. -/
theorem run_pair_next_iff {n : Nat} {s t : State} {p : List Byte × Byte}
    {pairs : List (List Byte × Byte)} (h : s.host = hostPairs (p :: pairs)) :
    Sys2Proof.core.run (n + 2) s = .next t ↔ fits s.cfg.bufCap p.1.length = true ∧
      ∃ s', issue p.2 (pairOperand s p.1 (hostPairs pairs)) = .next s' ∧
        Sys2Proof.core.run n s' = .next t := by
  rw [hostPairs_cons] at h
  have hin (s₁ : State) : step s = .next s₁ ↔ fits s.cfg.bufCap p.1.length = true ∧
      s₁ = { s with host := .writeCmd p.2 :: hostPairs pairs, inBuf := p.1 } := by
    rw [step_transact h]
    exact writeIn_next_iff
  simp only [run_succ_next_iff, hin, and_assoc, exists_and_left, exists_eq_left]
  rw [step_writeCmd rfl]
  rfl

/-! ## A run of pairs completes -/

/-- A completed run of pairs leaves in IN and CMD the last pair, and touches nothing outside the block,
nor WORDLIST. -/
theorem run_hostPairs {s : State} {pairs : List (List Byte × Byte)} (hcap : s.cfg.bufCap = none)
    (hhost : s.host = hostPairs pairs) :
    ∃ t, Sys2Proof.core.run (2 * pairs.length) s = .next t ∧
      t = { s with
        inBuf := (pairs.getLast?.getD (s.inBuf, s.cmd)).1
        cmd := (pairs.getLast?.getD (s.inBuf, s.cmd)).2
        host := [], status := t.status, out := t.out, revidx := t.revidx, built := t.built } := by
  induction pairs generalizing s with
  | nil =>
    have hs : s = { s with host := [] } := by rw [← show s.host = [] from hhost]
    exact ⟨s, rfl, hs⟩
  | cons p pairs ih =>
    obtain ⟨s', hissue⟩ := issue_completes p.2 (s := pairOperand s p.1 (hostPairs pairs)) hcap
    have hframe := issue_frame hissue
    have hcap' : s'.cfg.bufCap = none := by rw [hframe]; exact hcap
    obtain ⟨t, hrun, ht⟩ := ih hcap' (by rw [hframe]; rfl)
    have hfit : fits s.cfg.bufCap p.1.length = true := by rw [hcap, fits_none]
    refine ⟨t, (run_pair_next_iff hhost).2 ⟨hfit, s', hissue, hrun⟩, ?_⟩
    have hlast : (s'.inBuf, s'.cmd) = p := by rw [hframe]; rfl
    rw [hlast] at ht
    rw [ht, hframe, List.getLast?_cons]
    rfl

/-- Settles O21: with unbounded buffers each pair completes, and what it leaves outside REVIDX, BUILT,
STATUS and OUT is known. -/
theorem runOfPairsCompletes : Obligations.RunOfPairsCompletes := by
  intro s pairs hcap hhost
  obtain ⟨t, hrun, ht⟩ := run_hostPairs hcap hhost
  refine ⟨t, hrun, ?_⟩
  rw [ht]
  refine ⟨rfl, rfl, rfl, rfl, rfl, fun p hp => ?_⟩
  rw [hp]
  exact ⟨rfl, rfl⟩

/-! ## What a run of pairs shows -/

/-- A command keeps the cache rule, as its twin that is itself. -/
theorem issue_cacheOk {c : Byte} {s t : State} (h : CacheOk s) (ht : issue c s = .next t) :
    CacheOk t := by
  have hself : CacheTwins s s := ⟨rfl, h, h⟩
  have hagree := hself.issue c
  rw [ht] at hagree
  exact hagree.2.1

/-- The state before the last pair of a run. -/
theorem run_before_last {s t : State} {pairs : List (List Byte × Byte)} {p : List Byte × Byte}
    (hcache : CacheOk s) (hhost : s.host = hostPairs (pairs ++ [p]))
    (hrun : Sys2Proof.core.run (2 * (pairs.length + 1)) s = .next t) :
    ∃ u, CacheOk u ∧ u.wordlist = s.wordlist ∧ u.cfg = s.cfg ∧ u.host = hostPairs [p] ∧
      Sys2Proof.core.run 2 u = .next t := by
  induction pairs generalizing s with
  | nil => exact ⟨s, hcache, rfl, rfl, hhost, hrun⟩
  | cons q pairs ih =>
    obtain ⟨-, s', hissue, hrun'⟩ := (run_pair_next_iff hhost).1 hrun
    have hframe := issue_frame hissue
    obtain ⟨u, hu, hwl, hcfg, hrest⟩ := ih (issue_cacheOk (s := pairOperand s q.1 _) hcache hissue)
      (by rw [hframe]; rfl) hrun'
    exact ⟨u, hu, hwl.trans (by rw [hframe]; rfl), hcfg.trans (by rw [hframe]; rfl), hrest⟩

theorem sameAnswer_next {t : State} {b : Host.Outcome State Fault Refusal}
    (h : SameAnswer (.next t) b) :
    ∃ v, b = .next v ∧ t.status = v.status ∧ t.out = v.out := by
  cases b with
  | next v => exact ⟨v, rfl, h⟩
  | fault r => exact h.elim
  | refused r => exact h.elim

/-- The same command on the same IN shows the same (R60, R124). -/
theorem issue_observe {s t s' : State} (h : SameOperands s t) (c : Byte)
    (hs : issue c s = .next s') : ∃ t', issue c t = .next t' ∧ observe s' = observe t' := by
  have hans := h.issue_sameAnswer c
  rw [hs] at hans
  obtain ⟨t', ht, hstatus, hout⟩ := sameAnswer_next hans
  refine ⟨t', ht, ?_⟩
  rw [observe, observe, hstatus, hout, issue_frame hs, issue_frame ht, h.inBuf]

/-- Settles O22: the last pair is issued on the same IN, WORDLIST and parameters after the run and after
the reset, with the cache rule in both. -/
theorem runShowsLastPairOnly : Obligations.RunShowsLastPairOnly := by
  intro s t pairs p hcache hhost hrun
  obtain ⟨u, hu, hwl, hcfg, huhost, hlast⟩ := run_before_last hcache hhost hrun
  obtain ⟨hfit, t', hissue, ht⟩ := (run_pair_next_iff huhost).1 hlast
  obtain rfl : t' = t := Host.Outcome.next.inj ht
  have hop : SameOperands (pairOperand u p.1 []) (pairOperand (resetBlock s) p.1 []) :=
    ⟨rfl, hwl, hcfg, hu, nofun⟩
  obtain ⟨v, hv, hobs⟩ := issue_observe hop p.2 hissue
  exact ⟨v, (run_pair_next_iff rfl).2 ⟨hcfg ▸ hfit, v, hv, rfl⟩, hobs⟩

end Sys2Proof.Proofs
end

section
/-! PROOF. Which WORDLIST is refused for its disagreement with the source (spec/40_wordlist.md R102), and
the cells of the default one (spec/41_reverse_index.md R126). -/

namespace Sys2Proof.Proofs

open Sys2Proof.Machine Sys2Proof.Laws

/-- Entries that meet R100 have only the check of R102 before them. -/
theorem instantiate_rawEntries_of_wf (cfg : Config) {wl : Wordlist} (hwf : wl.wf = true) :
    instantiate cfg (rawEntries wl) =
      if wl.agreesWithSource then .next { State.reset with wordlist := wl, cfg := cfg }
      else .refused .wordlistDisagreesWithSource := by
  simp [instantiate, parseWordlist_eq_some_iff.2 rfl, hwf]

/-- Settles O32: good entries are a well-formed WORDLIST written out, of which R102 is the one check
left. -/
theorem disagreeingWordlistRefused : Obligations.DisagreeingWordlistRefused := by
  intro cfg entries hgood
  obtain ⟨wl, rfl, hwf⟩ := exists_wordlist_of_goodEntries hgood
  rw [sourceAgrees_rawEntries_iff, instantiate_rawEntries_of_wf cfg hwf]
  split
  next hsrc => simp [hsrc]
  next hsrc => simp [hsrc]

/-- Settles O37: the kernel computes the 256 cells. -/
theorem defaultCells : Obligations.DefaultCells := by
  unfold Obligations.DefaultCells
  decide +kernel

end Sys2Proof.Proofs
end

section
/-! PROOF. The checksum as a linear map (spec/42_checksum.md section 1 and R147). A turn of the inner loop is
linear over XOR and loses nothing; turns on zero bits only shift, so up to four bytes act as if they stood
in the accumulator together from the start. -/

namespace Sys2Proof.Proofs

open Sys2Proof.Machine Sys2Proof.Laws

/-- Settles O27: the kernel runs the bit-serial form on the six strings. -/
theorem checksumValues : Obligations.ChecksumValues := by
  unfold Obligations.ChecksumValues
  decide +kernel

/-! ## Turns of the inner loop -/

/-- What the bit that a turn shifts out adds to the accumulator. -/
def crcFeedback (bit : Bool) : Word32 := if bit then crcPoly else 0

theorem crcBit_eq_xor_feedback (a : Word32) : crcBit a = a >>> 1 ^^^ crcFeedback (a.getLsbD 0) := by
  unfold crcBit crcFeedback
  cases a.getLsbD 0 <;> simp

theorem crcFeedback_xor (p q : Bool) :
    crcFeedback (p ^^ q) = crcFeedback p ^^^ crcFeedback q := by
  revert p q
  decide

theorem crcBit_xor (a b : Word32) : crcBit (a ^^^ b) = crcBit a ^^^ crcBit b := by
  simp only [crcBit_eq_xor_feedback, BitVec.getLsbD_xor, crcFeedback_xor,
    BitVec.ushiftRight_xor_distrib]
  ac_rfl

theorem crcBit_iterate_xor (n : Nat) (a b : Word32) :
    crcBit^[n] (a ^^^ b) = crcBit^[n] a ^^^ crcBit^[n] b := by
  induction n generalizing a b with
  | zero => rfl
  | succ n ih => rw [Function.iterate_succ_apply, crcBit_xor, ih]; rfl

/-- The bit that is shifted out comes back as the top bit of the generator. -/
theorem crcBit_getLsbD_top (a : Word32) : (crcBit a).getLsbD 31 = a.getLsbD 0 := by
  have hpoly (bit : Bool) : (crcFeedback bit).getLsbD 31 = bit := by revert bit; decide
  rw [crcBit_eq_xor_feedback, BitVec.getLsbD_xor, hpoly, BitVec.getLsbD_ushiftRight,
    BitVec.getLsbD_of_ge _ _ (by decide), Bool.false_xor]

theorem crcBit_injective : Function.Injective crcBit := by
  intro a b h
  have hlow : a.getLsbD 0 = b.getLsbD 0 := by
    rw [← crcBit_getLsbD_top, h, crcBit_getLsbD_top]
  rw [crcBit_eq_xor_feedback, crcBit_eq_xor_feedback, hlow, BitVec.xor_left_inj] at h
  refine BitVec.eq_of_getLsbD_eq fun j _ => ?_
  cases j with
  | zero => exact hlow
  | succ j =>
    rw [Nat.add_comm, ← BitVec.getLsbD_ushiftRight, h, BitVec.getLsbD_ushiftRight]

/-- Turns that shift out zeros only shift. -/
theorem crcBit_iterate_of_low_zero {n : Nat} {a : Word32} (h : ∀ j < n, a.getLsbD j = false) :
    crcBit^[n] a = a >>> n := by
  induction n generalizing a with
  | zero => simp
  | succ n ih =>
    have hturn : crcBit a = a >>> 1 := by
      rw [crcBit, h 0 n.succ_pos, if_neg Bool.false_ne_true]
    have hrest : ∀ j < n, (a >>> 1).getLsbD j = false := fun j hj => by
      rw [BitVec.getLsbD_ushiftRight]
      exact h _ (by omega)
    rw [Function.iterate_succ_apply, hturn, ih hrest, ← BitVec.shiftRight_add, Nat.add_comm]

/-- A word whose top byte is zero has room for a shift by one byte. -/
theorem shiftLeft_ushiftRight_of_top_zero {a : Word32} (h : ∀ j, 24 ≤ j → a.getLsbD j = false) :
    (a <<< 8) >>> 8 = a := by
  refine BitVec.eq_of_getLsbD_eq fun j hj => ?_
  by_cases htop : 24 ≤ j
  · simp [h j htop]
  · have hroom : 8 + j < 32 := by omega
    simp [hroom, BitVec.getLsbD_eq_getElem hj]

theorem crcBit_iterate_shiftLeft (a : Word32) : crcBit^[8] (a <<< 8) = (a <<< 8) >>> 8 :=
  crcBit_iterate_of_low_zero fun j hj => by simp [hj]

/-! ## One byte -/

theorem crcByte_eq_iterate (acc : Word32) (b : Byte) :
    crcByte acc b = crcBit^[8] (acc ^^^ b.zeroExtend 32) := rfl

theorem crcByte_xor (p q : Word32) (a b : Byte) :
    crcByte (p ^^^ q) (a ^^^ b) = crcByte p a ^^^ crcByte q b := by
  simp only [crcByte_eq_iterate, BitVec.zeroExtend, BitVec.setWidth_xor, ← crcBit_iterate_xor]
  congr 1
  ac_rfl

/-- The low byte of the accumulator meets the byte, and the rest is shifted down (R144). -/
theorem crcByte_eq_table (acc : Word32) (b : Byte) :
    crcByte acc b =
      (acc >>> 8) ^^^ crcBit^[8] ((acc.extractLsb' 0 8 ^^^ b).zeroExtend 32) := by
  have hsplit : acc ^^^ b.zeroExtend 32 =
      (acc >>> 8) <<< 8 ^^^ (acc.extractLsb' 0 8 ^^^ b).zeroExtend 32 := by
    refine BitVec.eq_of_getLsbD_eq fun j hj => ?_
    by_cases hlow : j < 8
    · simp [hlow, hj]
    · simp [hlow, hj, Nat.add_sub_cancel' (Nat.le_of_not_lt hlow)]
  have hshift : ((acc >>> 8) <<< 8) >>> 8 = acc >>> 8 :=
    shiftLeft_ushiftRight_of_top_zero fun j hj => by
      rw [BitVec.getLsbD_ushiftRight, BitVec.getLsbD_of_ge _ _ (by omega)]
  rw [crcByte_eq_iterate, hsplit, crcBit_iterate_xor, crcBit_iterate_shiftLeft, hshift]

/-- Settles O29: the two forms take the same step for each byte. -/
theorem tableDrivenChecksum : Obligations.TableDrivenChecksum := by
  intro u
  have hstep : (fun (acc : Word32) (b : Byte) =>
      (acc >>> 8) ^^^ crcBit^[8] ((acc.extractLsb' 0 8 ^^^ b).zeroExtend 32)) = crcByte :=
    funext₂ fun acc b => (crcByte_eq_table acc b).symm
  rw [tableCrc32, hstep, crc32]

/-! ## Strings of one length -/

theorem foldl_crcByte_xor {a b : List Byte} (h : a.length = b.length) (p q : Word32) :
    (List.zipWith (· ^^^ ·) a b).foldl crcByte (p ^^^ q) =
      a.foldl crcByte p ^^^ b.foldl crcByte q := by
  induction a generalizing b p q with
  | nil => rw [List.length_eq_zero_iff.1 h.symm]; rfl
  | cons x a ih =>
    cases b with
    | nil => exact nomatch h
    | cons y b =>
      rw [List.zipWith_cons_cons, List.foldl_cons, crcByte_xor]
      exact ih (Nat.succ.inj h) _ _

/-- R147: three strings, so that the initial value and the final XOR remain once each. -/
theorem crc32_xor_xor {a b c : List Byte} (hab : a.length = b.length) (hbc : b.length = c.length) :
    crc32 (List.zipWith (· ^^^ ·) (List.zipWith (· ^^^ ·) a b) c) =
      crc32 a ^^^ crc32 b ^^^ crc32 c := by
  have hlen : (List.zipWith (· ^^^ ·) a b).length = c.length := by simp [hab, hbc]
  have hfold (k : Word32) : (List.zipWith (· ^^^ ·) (List.zipWith (· ^^^ ·) a b) c).foldl crcByte
      (k ^^^ k ^^^ k) ^^^ (k ^^^ k ^^^ k) =
      (a.foldl crcByte k ^^^ k) ^^^ (b.foldl crcByte k ^^^ k) ^^^ (c.foldl crcByte k ^^^ k) := by
    rw [foldl_crcByte_xor hlen, foldl_crcByte_xor hab]
    ac_rfl
  exact hfold 0xFFFFFFFF

/-! ## Strings that differ inside four bytes -/

/-- Up to four bytes as they meet the accumulator, the first at the low end. -/
def burstWord : List Byte → Word32
  | [] => 0
  | b :: bs => b.zeroExtend 32 ^^^ burstWord bs <<< 8

theorem burstWord_getLsbD_of_ge {u : List Byte} {j : Nat} (h : 8 * u.length ≤ j) :
    (burstWord u).getLsbD j = false := by
  induction u generalizing j with
  | nil => simp [burstWord]
  | cons b bs ih =>
    rw [List.length_cons] at h
    have hb : b.getLsbD j = false := BitVec.getLsbD_of_ge b j (by omega)
    have hbs : (burstWord bs).getLsbD (j - 8) = false := ih (by omega)
    simp [burstWord, hb, hbs]

/-- Up to three bytes leave room for another below them. -/
theorem burstWord_shift {u : List Byte} (h : u.length ≤ 3) :
    (burstWord u <<< 8) >>> 8 = burstWord u :=
  shiftLeft_ushiftRight_of_top_zero fun _ hj => burstWord_getLsbD_of_ge (by omega)

/-- The low byte is the first of the bytes. -/
theorem burstWord_cons_low (b : Byte) (bs : List Byte) :
    (burstWord (b :: bs)).setWidth 8 = b := by
  refine BitVec.eq_of_getLsbD_eq fun j hj => ?_
  simp [burstWord, hj]

/-- Above the low byte stand the others. -/
theorem burstWord_cons_high (b : Byte) {bs : List Byte} (h : bs.length ≤ 3) :
    burstWord (b :: bs) >>> 8 = burstWord bs := by
  have hb : b.zeroExtend 32 >>> 8 = 0#32 := by
    refine BitVec.eq_of_getLsbD_eq fun j hj => ?_
    simp
  rw [burstWord, BitVec.ushiftRight_xor_distrib, burstWord_shift h, hb, BitVec.zero_xor]

/-- Up to four bytes enter as one word, in the turns of all of them. -/
theorem foldl_crcByte_eq_iterate {u : List Byte} (h : u.length ≤ 4) (acc : Word32) :
    u.foldl crcByte acc = crcBit^[8 * u.length] (acc ^^^ burstWord u) := by
  induction u generalizing acc with
  | nil => simp [burstWord]
  | cons b bs ih =>
    rw [List.length_cons] at h
    have hturns : crcBit^[8] (acc ^^^ burstWord (b :: bs)) = crcByte acc b ^^^ burstWord bs := by
      rw [burstWord, ← BitVec.xor_assoc, crcBit_iterate_xor, crcBit_iterate_shiftLeft,
        burstWord_shift (by omega), crcByte_eq_iterate]
    rw [List.foldl_cons, ih (by omega), List.length_cons, Nat.mul_succ,
      Function.iterate_add_apply, hturns]

theorem burstWord_cons_inj {a b : Byte} {u v : List Byte} (hu : u.length ≤ 3) (hv : v.length ≤ 3)
    (h : burstWord (a :: u) = burstWord (b :: v)) : a = b ∧ burstWord u = burstWord v := by
  rw [← burstWord_cons_low a u, ← burstWord_cons_low b v, ← burstWord_cons_high a hu,
    ← burstWord_cons_high b hv, h]
  exact ⟨rfl, rfl⟩

theorem burstWord_injective {u v : List Byte} (hlen : u.length = v.length) (h4 : u.length ≤ 4)
    (h : burstWord u = burstWord v) : u = v := by
  induction u generalizing v with
  | nil => exact (List.length_eq_zero_iff.1 hlen.symm).symm
  | cons a u ih =>
    cases v with
    | nil => exact nomatch hlen
    | cons b v =>
      rw [List.length_cons, List.length_cons] at hlen
      rw [List.length_cons] at h4
      obtain ⟨rfl, htail⟩ := burstWord_cons_inj (by omega) (by omega) h
      rw [ih (by omega) (by omega) htail]

theorem crcByte_injective (b : Byte) : Function.Injective (crcByte · b) := fun _ _ h =>
  (BitVec.xor_left_inj _).1 (crcBit_injective.iterate 8 h)

theorem foldl_crcByte_injective (u : List Byte) : Function.Injective (u.foldl crcByte ·) := by
  induction u with
  | nil => exact fun _ _ h => h
  | cons b u ih => exact ih.comp (crcByte_injective b)

/-- R147: the strings differ in the one word that the four bytes are, and no later turn loses that. -/
theorem crc32_ne_of_burst {pre mid mid' post : List Byte} (hlen : mid.length = mid'.length)
    (h4 : mid.length ≤ 4) (hne : mid ≠ mid') :
    crc32 (pre ++ mid ++ post) ≠ crc32 (pre ++ mid' ++ post) := by
  intro h
  simp only [crc32, List.foldl_append, BitVec.xor_left_inj] at h
  have hmid := foldl_crcByte_injective post h
  rw [foldl_crcByte_eq_iterate h4, foldl_crcByte_eq_iterate (u := mid') (by omega), hlen] at hmid
  have hword := (BitVec.xor_right_inj _).1 (crcBit_injective.iterate _ hmid)
  exact hne (burstWord_injective hlen h4 hword)

/-- Settles O30: the checksum is linear up to its two constants, and injective on four bytes in a
row. -/
theorem checksumDetectsBursts : Obligations.ChecksumDetectsBursts :=
  ⟨fun _ _ _ => crc32_xor_xor, fun _ _ _ _ => crc32_ne_of_burst⟩

end Sys2Proof.Proofs
end

section
/-! PROOF. The text that ENCODE writes (spec/43_encoder.md R163 to R165; spec/45_style_multiplexer.md R205):
its length, its characters, and that cutting it at the separators gives its words back. -/

namespace Sys2Proof.Proofs

open Sys2Proof.Machine Sys2Proof.Laws

/-! ## Length -/

/-- Settles O45: full words with a separator after each but the last, or two letters a byte. -/
theorem encodeLength : Obligations.EncodeLength := by
  intro s t style st hst h
  obtain ⟨-, rfl⟩ := (exec_encode_next_iff hst).1 h
  cases st with
  | standard => exact renderText_appendChecksum_length_of_sep (st := .standard) rfl _ _
  | uri => exact renderText_appendChecksum_length_of_sep (st := .uri) rfl _ _
  | minimal => exact renderText_minimal_appendChecksum_length _ _

/-! ## Characters -/

theorem mem_joinWords {c x : Byte} {words : List (List Byte)} (h : x ∈ joinWords c words) :
    x = c ∨ ∃ w ∈ words, x ∈ w := by
  induction words with
  | nil => exact absurd h List.not_mem_nil
  | cons w ws ih =>
    by_cases hws : ws = []
    · subst hws
      exact .inr ⟨w, List.mem_cons_self, h⟩
    · rw [joinWords_cons c w hws, List.mem_append, List.mem_cons] at h
      obtain hw | rfl | hrest := h
      · exact .inr ⟨w, List.mem_cons_self, hw⟩
      · exact .inl rfl
      · exact (ih hrest).imp_right fun ⟨v, hv, hx⟩ => ⟨v, List.mem_cons_of_mem w hv, hx⟩

/-- The minimal code of a byte is made of letters of its word. -/
theorem mem_chars_of_mem_minimalWordAt {wl : Wordlist} {i x : Byte} (h : x ∈ minimalWordAt wl i) :
    x ∈ (wordAt wl i).chars := by
  simp only [minimalWordAt, List.mem_cons, List.not_mem_nil, or_false] at h
  obtain rfl | rfl := h <;> simp [Byteword.chars]

/-- A character of a text is the separator of its style or stands in the word of a byte. -/
theorem mem_renderText {wl : Wordlist} {st : Style} {buf : List Byte} {x : Byte}
    (h : x ∈ renderText wl st buf) : sep st = some x ∨ ∃ b, x ∈ (wordAt wl b).chars := by
  cases hsep : sep st with
  | some c =>
    rw [renderText_of_sep hsep] at h
    obtain rfl | ⟨w, hw, hx⟩ := mem_joinWords h
    · exact .inl rfl
    · obtain ⟨b, -, rfl⟩ := List.mem_map.1 hw
      exact .inr ⟨b, hx⟩
  | none =>
    rw [renderText, hsep] at h
    obtain ⟨w, hw, hx⟩ := List.mem_flatten.1 h
    obtain ⟨b, -, rfl⟩ := List.mem_map.1 hw
    exact .inr ⟨b, mem_chars_of_mem_minimalWordAt hx⟩

/-- Settles O46: the words of a well-formed WORDLIST are lowercase letters. -/
theorem encodeCharacters : Obligations.EncodeCharacters := by
  intro s t style st hwf hst h x hx
  obtain ⟨-, rfl⟩ := (exec_encode_next_iff hst).1 h
  obtain ⟨hlower, -⟩ := wordlist_wf_entries hwf
  obtain hsep | ⟨b, hb⟩ := mem_renderText hx
  · exact .inr hsep
  · exact .inl (of_decide_eq_true (hlower b x hb))

/-! ## Splitting a joined text -/

theorem splitOn_append_cons (c : Byte) (t u : List Byte) :
    splitOn c (t ++ c :: u) = splitOn c t ++ splitOn c u :=
  splitFrom_append_cons c [] t u

theorem splitOn_of_not_mem {c : Byte} {t : List Byte} (h : c ∉ t) : splitOn c t = [t] :=
  splitFrom_of_not_mem h []

/-- A joined text is cut between the words, and inside them where they hold the separator. -/
theorem splitOn_joinWords (c : Byte) {words : List (List Byte)} (h : words ≠ []) :
    splitOn c (joinWords c words) = words.flatMap (splitOn c) := by
  induction words with
  | nil => exact absurd rfl h
  | cons w ws ih =>
    by_cases hws : ws = []
    · simp [hws]
    · rw [joinWords_cons c w hws, splitOn_append_cons, ih hws, List.flatMap_cons]

theorem flatMap_splitOn_of_not_mem {c : Byte} {words : List (List Byte)}
    (h : ∀ w ∈ words, c ∉ w) : words.flatMap (splitOn c) = words := by
  rw [List.flatMap_congr fun w hw => splitOn_of_not_mem (h w hw), List.flatMap_singleton']

theorem isLowerLetter_sep {st : Style} {c : Byte} (h : sep st = some c) :
    isLowerLetter c = false := by
  cases st <;> cases h <;> decide

/-- No word of a well-formed WORDLIST holds a separator (R205). -/
theorem sep_not_mem_chars {wl : Wordlist} (hwf : wl.wf = true) {st : Style} {c : Byte}
    (hc : sep st = some c) (i : Byte) : c ∉ (wordAt wl i).chars :=
  not_mem_chars_of_not_isLowerLetter hwf (isLowerLetter_sep hc) i

theorem splitOn_renderText {wl : Wordlist} (hwf : wl.wf = true) {st : Style} {c : Byte}
    (hc : sep st = some c) {buf : List Byte} (hne : buf ≠ []) :
    splitOn c (renderText wl st buf) = buf.map fun b => (wordAt wl b).chars := by
  rw [renderText_of_sep hc, splitOn_joinWords c (mt List.map_eq_nil_iff.1 hne)]
  exact flatMap_splitOn_of_not_mem (List.forall_mem_map.2 fun b _ => sep_not_mem_chars hwf hc b)

/-- Settles O48: the cuts inside the words are none. -/
theorem splitRecoversWords : Obligations.SplitRecoversWords := by
  intro wl st c buf hwf hc
  exact ⟨sep_not_mem_chars hwf hc, splitOn_renderText hwf hc⟩

/-! ## The three texts of one payload -/

theorem map_joinWords (f : Byte → Byte) (c : Byte) (words : List (List Byte)) :
    (joinWords c words).map f = joinWords (f c) (words.map (List.map f)) := by
  induction words with
  | nil => rfl
  | cons w ws ih =>
    by_cases hws : ws = []
    · simp [hws]
    · rw [joinWords_cons c w hws, List.map_append, List.map_cons, ih, List.map_cons,
        joinWords_cons _ _ (mt List.map_eq_nil_iff.1 hws)]

/-- A space becomes a hyphen (R165). -/
def spaceToHyphen (x : Byte) : Byte := if x = 0x20 then 0x2D else x

theorem map_spaceToHyphen_of_not_mem {w : List Byte} (h : 0x20 ∉ w) : w.map spaceToHyphen = w := by
  have hsame : ∀ x ∈ w, spaceToHyphen x = id x := fun x hx => if_neg (ne_of_mem_of_not_mem hx h)
  rw [List.map_congr_left hsame, List.map_id]

theorem renderText_uri_eq {wl : Wordlist} (hwf : wl.wf = true) (buf : List Byte) :
    renderText wl .uri buf = (renderText wl .standard buf).map spaceToHyphen := by
  have hwords : (buf.map fun b => (wordAt wl b).chars).map (List.map spaceToHyphen) =
      buf.map fun b => (wordAt wl b).chars := by
    rw [List.map_map]
    exact List.map_congr_left fun b _ =>
      map_spaceToHyphen_of_not_mem (sep_not_mem_chars hwf (st := .standard) rfl b)
  rw [renderText_of_sep (st := .uri) rfl, renderText_of_sep (st := .standard) rfl, map_joinWords,
    hwords]
  rfl

theorem renderText_minimal_eq {wl : Wordlist} (hwf : wl.wf = true) {buf : List Byte}
    (hne : buf ≠ []) : renderText wl .minimal buf =
      ((splitOn 0x20 (renderText wl .standard buf)).map fun w => [charAt w 0, charAt w 3]).flatten := by
  rw [splitOn_renderText hwf (st := .standard) rfl hne, List.map_map, renderText_minimal]
  rfl

theorem appendChecksum_ne_nil (u : List Byte) : appendChecksum u ≠ [] :=
  List.ne_nil_of_length_pos (by rw [appendChecksum_length]; omega)

/-- Settles O47: the three texts are those of the same buffer. -/
theorem encodeStylesAgree : Obligations.EncodeStylesAgree := by
  intro s std uri min hwf hstd huri hmin
  obtain ⟨-, rfl⟩ := (exec_encode_next_iff (style := 0b00) rfl).1 hstd
  obtain ⟨-, rfl⟩ := (exec_encode_next_iff (style := 0b01) rfl).1 huri
  obtain ⟨-, rfl⟩ := (exec_encode_next_iff (style := 0b10) rfl).1 hmin
  exact ⟨renderText_uri_eq hwf _, renderText_minimal_eq hwf (appendChecksum_ne_nil _)⟩

end Sys2Proof.Proofs
end

section
/-! PROOF. What a token decodes to (spec/44_decoder.md R181 to R185): a token is accepted exactly when its
edges are those of a word and its folded middle letters too, so the token of a byte decodes to the byte,
and an accepted token is the token of its byte up to capitals. -/

namespace Sys2Proof.Proofs

open Sys2Proof.Machine Sys2Proof.Laws

/-! ## Letters -/

theorem lower_of_isLowerLetter {c : Byte} (h : isLowerLetter c = true) : lower c = c := by
  obtain ⟨hlow, -⟩ := of_decide_eq_true h
  exact if_neg fun hcap => by omega

theorem edge_of_isLowerLetter {c : Byte} (h : isLowerLetter c = true) (fold : Bool) :
    edge fold c = c := by
  cases fold with
  | false => rfl
  | true => exact lower_of_isLowerLetter h

/-- An edge that is a lowercase letter, folded or not, is the fold of the character. -/
theorem lower_of_edge_eq {fold : Bool} {a c : Byte} (hc : isLowerLetter c = true)
    (h : edge fold a = c) : lower a = c := by
  cases fold with
  | false => rw [show a = c from h, lower_of_isLowerLetter hc]
  | true => exact h

/-- R100 (b), letter by letter. -/
theorem isLowerLetter_letters {wl : Wordlist} (hwf : wl.wf = true) (i : Byte) :
    isLowerLetter (wordAt wl i).c0 = true ∧ isLowerLetter (wordAt wl i).c1 = true ∧
      isLowerLetter (wordAt wl i).c2 = true ∧ isLowerLetter (wordAt wl i).c3 = true := by
  obtain ⟨hlower, -⟩ := wordlist_wf_entries hwf
  simpa [Byteword.chars] using hlower i

/-! ## Accepted tokens -/

/-- All that an accepted token has passed, and all that it has to pass. -/
theorem decodeToken_eq_ok_iff {wl : Wordlist} (hwf : wl.wf = true) {fold : Bool} {len : Nat}
    {t : List Byte} {i : Byte} : decodeToken fold wl (revTable wl) len t = .ok i ↔
      t.length = len ∧ minimalWordAt wl i = edgesOf fold len t ∧
        ¬ MiddleDiffers (wordAt wl i) len t := by
  constructor
  · intro h
    obtain ⟨-, hr⟩ | ⟨-, -, hr⟩ | ⟨v, hlen, hfound, ⟨-, hr⟩ | ⟨hsame, hr⟩⟩ :=
      decodeToken_cases fold wl (revTable wl) len t
    · exact nomatch h.symm.trans hr
    · exact nomatch h.symm.trans hr
    · exact nomatch h.symm.trans hr
    · obtain rfl : i = v := Except.ok.inj (h.symm.trans hr)
      exact ⟨hlen, (lookup_edges_eq_value_iff hwf).1 hfound, hsame⟩
  · rintro ⟨hlen, hedges, hsame⟩
    exact (decodeToken_of_edges hwf hlen hedges).2 hsame

/-- The token of four letters, letter by letter. -/
theorem decodeToken_chars_eq_ok_iff {wl : Wordlist} (hwf : wl.wf = true) {fold : Bool}
    {w : Byteword} {i : Byte} : decodeToken fold wl (revTable wl) 4 w.chars = .ok i ↔
      edge fold w.c0 = (wordAt wl i).c0 ∧ lower w.c1 = (wordAt wl i).c1 ∧
        lower w.c2 = (wordAt wl i).c2 ∧ edge fold w.c3 = (wordAt wl i).c3 := by
  have hedges : minimalWordAt wl i = edgesOf fold 4 w.chars ↔
      edge fold w.c0 = (wordAt wl i).c0 ∧ edge fold w.c3 = (wordAt wl i).c3 := by
    rw [edgesOf, minimalWordAt_eq_iff, eq_comm, eq_comm (a := (wordAt wl i).c3)]
    rfl
  have hmiddle : ¬ MiddleDiffers (wordAt wl i) 4 w.chars ↔
      lower w.c1 = (wordAt wl i).c1 ∧ lower w.c2 = (wordAt wl i).c2 := by
    simp [MiddleDiffers, Byteword.chars, charAt]
  rw [decodeToken_eq_ok_iff hwf, hedges, hmiddle]
  simp only [chars_length, true_and]
  tauto

/-- The token of two letters, letter by letter. -/
theorem decodeToken_pair_eq_ok_iff {wl : Wordlist} (hwf : wl.wf = true) {fold : Bool}
    {a b i : Byte} : decodeToken fold wl (revTable wl) 2 [a, b] = .ok i ↔
      edge fold a = (wordAt wl i).c0 ∧ edge fold b = (wordAt wl i).c3 := by
  have hedges : minimalWordAt wl i = edgesOf fold 2 [a, b] ↔
      edge fold a = (wordAt wl i).c0 ∧ edge fold b = (wordAt wl i).c3 := by
    rw [edgesOf, minimalWordAt_eq_iff, eq_comm, eq_comm (a := (wordAt wl i).c3)]
    rfl
  have hmiddle : ¬ MiddleDiffers (wordAt wl i) 2 [a, b] := fun h => absurd h.1 (by decide)
  rw [decodeToken_eq_ok_iff hwf, hedges]
  simp [hmiddle]

/-! ## The token of a byte -/

/-- The token of a byte in a style: its word, or its minimal code (R160, R162). -/
def tokenOf (wl : Wordlist) (st : Style) (i : Byte) : List Byte :=
  if fullWords st then (wordAt wl i).chars else minimalWordAt wl i

theorem decodeToken_tokenOf {wl : Wordlist} (hwf : wl.wf = true) (fold : Bool) (st : Style)
    (i : Byte) : decodeToken fold wl (revTable wl) (tokenLen st) (tokenOf wl st i) = .ok i := by
  obtain ⟨h0, h1, h2, h3⟩ := isLowerLetter_letters hwf i
  have hfirst := edge_of_isLowerLetter h0 fold
  have hlast := edge_of_isLowerLetter h3 fold
  cases st with
  | standard | uri =>
    exact (decodeToken_chars_eq_ok_iff hwf).2
      ⟨hfirst, lower_of_isLowerLetter h1, lower_of_isLowerLetter h2, hlast⟩
  | minimal => exact (decodeToken_pair_eq_ok_iff hwf).2 ⟨hfirst, hlast⟩

/-- What is accepted as a byte is the token of that byte, with its capitals folded. -/
theorem map_lower_of_decodeToken_ok {wl : Wordlist} (hwf : wl.wf = true) {fold : Bool} {st : Style}
    {t : List Byte} {i : Byte}
    (h : decodeToken fold wl (revTable wl) (tokenLen st) t = .ok i) :
    t.map lower = tokenOf wl st i := by
  obtain ⟨hfirst, -, -, hlast⟩ := isLowerLetter_letters hwf i
  obtain ⟨hlen, -⟩ := (decodeToken_eq_ok_iff hwf).1 h
  cases st with
  | standard | uri =>
    obtain ⟨w, -, rfl⟩ := exists_chars_of_length hlen
    obtain ⟨h0, h1, h2, h3⟩ := (decodeToken_chars_eq_ok_iff hwf).1 h
    simp [tokenOf, fullWords, Byteword.chars, h1, h2, lower_of_edge_eq hfirst h0,
      lower_of_edge_eq hlast h3]
  | minimal =>
    obtain ⟨a, b, rfl⟩ := List.length_eq_two.1 hlen
    obtain ⟨h0, h3⟩ := (decodeToken_pair_eq_ok_iff hwf).1 h
    simp [tokenOf, fullWords, minimalWordAt, lower_of_edge_eq hfirst h0, lower_of_edge_eq hlast h3]

/-! ## Edges that are no lowercase letters -/

theorem decodeToken_of_edge_outside {wl : Wordlist} (hwf : wl.wf = true) {len : Nat}
    {t : List Byte} (hlen : t.length = len)
    (h : isLowerLetter (charAt t 0) = false ∨ isLowerLetter (charAt t (len - 1)) = false) :
    decodeToken false wl (revTable wl) len t = .error .invalidWord := by
  refine decodeToken_of_no_word hwf hlen fun i hi => ?_
  obtain ⟨hfirst, -, -, hlast⟩ := isLowerLetter_letters hwf i
  obtain ⟨h0, h3⟩ := minimalWordAt_eq_iff.1 hi
  rw [h0] at hfirst
  rw [h3] at hlast
  exact h.elim (Bool.false_ne_true <| ·.symm.trans hfirst)
    (Bool.false_ne_true <| ·.symm.trans hlast)

/-- Settles O52: the edges of a word are lowercase letters, so the token has the edges of no word. -/
theorem edgeOutsideLowercase : Obligations.EdgeOutsideLowercase := by
  intro s style st hst hwf hcache hfold hlen hout
  refine exec_decodeWord_of_error (e := .invalidWord) hst hcache ?_
  rw [hfold]
  exact decodeToken_of_edge_outside hwf hlen hout

end Sys2Proof.Proofs
end

section
/-! PROOF. DECODE of a text that is the tokens of a buffer (spec/44_decoder.md R189, R190, R193): the text
decodes to the buffer, whose check then gives the payload or tells the error. -/

namespace Sys2Proof.Proofs

open Sys2Proof.Machine Sys2Proof.Laws

/-! ## Text and tokens -/

theorem fullWords_of_sep {st : Style} {c : Byte} (h : sep st = some c) : fullWords st = true := by
  cases st with
  | standard | uri => rfl
  | minimal => exact nomatch h

theorem tokenOf_of_sep {st : Style} {c : Byte} (h : sep st = some c) (wl : Wordlist) (i : Byte) :
    tokenOf wl st i = (wordAt wl i).chars := if_pos (fullWords_of_sep h)

theorem tokens_of_sep {st : Style} {c : Byte} (h : sep st = some c) (t : List Byte) :
    tokens st t = splitOn c t := by
  rw [tokens, h]

/-- The text made of some tokens in a style: the inverse of the token parser. -/
def joinTokens (st : Style) (toks : List (List Byte)) : List Byte :=
  match sep st with
  | some c => joinWords c toks
  | none => toks.flatten

theorem joinTokens_of_sep {st : Style} {c : Byte} (h : sep st = some c) (toks : List (List Byte)) :
    joinTokens st toks = joinWords c toks := by
  rw [joinTokens, h]

theorem joinTokens_minimal (toks : List (List Byte)) : joinTokens .minimal toks = toks.flatten := rfl

theorem renderText_eq_joinTokens (wl : Wordlist) (st : Style) (buf : List Byte) :
    renderText wl st buf = joinTokens st (buf.map (tokenOf wl st)) := by
  cases st <;> rfl

theorem flatten_chunks2 (t : List Byte) : (chunks2 t).flatten = t := by
  induction t using chunks2.induct with
  | case1 => rfl
  | case2 a => rfl
  | case3 a b t ih => rw [chunks2, List.flatten_cons, ih]; rfl

theorem joinTokens_tokens (st : Style) (t : List Byte) : joinTokens st (tokens st t) = t := by
  cases hsep : sep st with
  | some c => rw [tokens_of_sep hsep, joinTokens_of_sep hsep]; exact joinWords_splitFrom c [] t
  | none => simp only [joinTokens, tokens, hsep, flatten_chunks2]

/-- Folding a text folds its tokens, since a separator is no capital. -/
theorem map_lower_joinTokens (st : Style) (toks : List (List Byte)) :
    (joinTokens st toks).map lower = joinTokens st (toks.map (List.map lower)) := by
  cases st with
  | standard | uri => exact map_joinWords lower _ toks
  | minimal => rw [joinTokens_minimal, joinTokens_minimal, List.map_flatten]

theorem chunks2_renderText_minimal (wl : Wordlist) (buf : List Byte) :
    chunks2 (renderText wl .minimal buf) = buf.map (tokenOf wl .minimal) := by
  induction buf with
  | nil => rfl
  | cons b bs ih => exact congrArg _ ih

/-- The parser of a style finds the tokens of the bytes (R180, R181, R205). -/
theorem tokens_renderText {wl : Wordlist} (hwf : wl.wf = true) (st : Style) {buf : List Byte}
    (hne : buf ≠ []) : tokens st (renderText wl st buf) = buf.map (tokenOf wl st) := by
  cases st with
  | standard | uri => exact splitOn_renderText hwf rfl hne
  | minimal => exact chunks2_renderText_minimal wl buf

/-! ## The tokens of a buffer -/

theorem except_map_eq_ok_iff {ε α β : Type} {f : α → β} {r : Except ε α} {b : β} :
    r.map f = .ok b ↔ ∃ a, r = .ok a ∧ f a = b := by
  cases r <;> simp [Except.map]

/-- A list of tokens decodes to a buffer exactly when each token decodes to its byte. -/
theorem decodeTokens_eq_ok_iff {fold : Bool} {wl : Wordlist} {table : RevIdx} {len : Nat}
    {toks : List (List Byte)} {buf : List Byte} :
    decodeTokens fold wl table len toks = .ok buf ↔
      toks.map (decodeToken fold wl table len) = buf.map .ok := by
  induction toks generalizing buf with
  | nil => cases buf <;> simp
  | cons t ts ih =>
    cases ht : decodeToken fold wl table len t with
    | error e => cases buf <;> simp [decodeTokens_cons_error ht, ht]
    | ok v =>
      rw [decodeTokens_cons_ok ht, except_map_eq_ok_iff, List.map_cons, ht]
      cases buf with
      | nil => simp
      | cons w u => simp [ih, and_comm]

theorem decodeText_of_decodeTokens {st : Style} {s : State} {buf : List Byte}
    (h : (tokens st s.inBuf).map
      (decodeToken s.cfg.caseFoldEdges s.wordlist (revTable s.wordlist) (tokenLen st)) =
        buf.map .ok) : decodeText st (afterBuild s) = checkBuffer buf :=
  decodeText_of_tokens_ok (decodeTokens_eq_ok_iff.2 h)

theorem decodeText_of_renderText {st : Style} {s : State} {buf : List Byte}
    (hwf : s.wordlist.wf = true) (hne : buf ≠ []) (hin : s.inBuf = renderText s.wordlist st buf) :
    decodeText st (afterBuild s) = checkBuffer buf := by
  refine decodeText_of_decodeTokens ?_
  rw [hin, tokens_renderText hwf st hne, List.map_map]
  exact List.map_congr_left fun i _ => decodeToken_tokenOf hwf _ st i

/-! ## The check of a buffer, by its body and its trailer -/

section
variable {body trailer : List Byte}

theorem take_drop_of_trailer (h : trailer.length = 4) :
    (body ++ trailer).take ((body ++ trailer).length - 4) = body ∧
      (body ++ trailer).drop ((body ++ trailer).length - 4) = trailer := by
  rw [List.length_append, h, Nat.add_sub_cancel]
  exact ⟨List.take_left' rfl, List.drop_left' rfl⟩

theorem five_le_length (hne : body ≠ []) (h : trailer.length = 4) :
    5 ≤ (body ++ trailer).length := by
  have hpos := List.length_pos_iff.2 hne
  rw [List.length_append, h]
  omega

theorem checkBuffer_append_of_eq (hne : body ≠ []) (h : crcBytes body = trailer) :
    checkBuffer (body ++ trailer) = .ok body := by
  have h4 : trailer.length = 4 := h ▸ crcBytes_length body
  obtain ⟨htake, hdrop⟩ := take_drop_of_trailer (body := body) h4
  rw [checkBuffer_of_eq (five_le_length hne h4) (by rw [htake, hdrop, h]), htake]

theorem checkBuffer_append_of_ne (hne : body ≠ []) (h4 : trailer.length = 4)
    (h : crcBytes body ≠ trailer) : checkBuffer (body ++ trailer) = .error .checksumMismatch := by
  obtain ⟨htake, hdrop⟩ := take_drop_of_trailer (body := body) h4
  exact checkBuffer_of_ne (five_le_length hne h4) (by rwa [htake, hdrop])

end

theorem checkBuffer_appendChecksum {b : List Byte} (hne : b ≠ []) :
    checkBuffer (appendChecksum b) = .ok b := checkBuffer_append_of_eq hne rfl

/-- R189: the checksum of the empty payload alone is too short. -/
theorem checkBuffer_appendChecksum_nil :
    checkBuffer (appendChecksum []) = .error .invalidDecodedLength :=
  checkBuffer_of_length_lt (by rw [appendChecksum_length]; decide)

/-- An accepted buffer is its body and the checksum of its body, and the body is not empty. -/
theorem eq_appendChecksum_of_checkBuffer_ok {buf body : List Byte}
    (h : checkBuffer buf = .ok body) : body ≠ [] ∧ buf = appendChecksum body := by
  obtain ⟨-, hr⟩ | ⟨-, -, hr⟩ | ⟨hlen, hcrc, hr⟩ := checkBuffer_cases buf
  · exact nomatch h.symm.trans hr
  · exact nomatch h.symm.trans hr
  · obtain rfl : body = _ := Except.ok.inj (h.symm.trans hr)
    rw [slice_zero, slice_length] at hcrc
    rw [slice_zero, appendChecksum, hcrc, List.take_append_drop]
    exact ⟨List.ne_nil_of_length_pos (by rw [List.length_take]; omega), rfl⟩

/-! ## DECODE of an encoded text -/

/-- Settles O54: the text decodes to the payload and its checksum, and the check takes the checksum
off. -/
theorem decodeCompletes : Obligations.DecodeCompletes := by
  intro s style st b hst hwf hcache hne hfit hin
  refine exec_decode_of_ok hst hcache hfit ?_
  rw [decodeText_of_renderText hwf (appendChecksum_ne_nil b) hin, checkBuffer_appendChecksum hne]

theorem renderText_appendChecksum_length_le (wl : Wordlist) (st : Style) (u : List Byte) :
    (renderText wl st (appendChecksum u)).length ≤ 5 * u.length + 19 := by
  cases st with
  | standard => exact (renderText_appendChecksum_length_of_sep (st := .standard) rfl wl u).le
  | uri => exact (renderText_appendChecksum_length_of_sep (st := .uri) rfl wl u).le
  | minimal =>
    rw [renderText_minimal_appendChecksum_length]
    omega

/-- What ENCODE leaves in a style, with room for the text (R160). -/
def encodedState (st : Style) (s : State) : State :=
  { s with out := renderText s.wordlist st (appendChecksum s.inBuf), status := 0x00 }

/-- The output of ENCODE put back into IN. -/
def sentBackState (st : Style) (s : State) : State :=
  { encodedState st s with inBuf := (encodedState st s).out }

theorem exec_encode_of_room {style : BitVec 2} {st : Style} (hst : styleDecode style = some st)
    {s : State} (hfit : fits s.cfg.bufCap (5 * s.inBuf.length + 19) = true) :
    exec (.encode style) s = .next (encodedState st s) :=
  (exec_encode_next_iff hst).2
    ⟨fits_mono (renderText_appendChecksum_length_le s.wordlist st s.inBuf) hfit, rfl⟩

theorem decodeText_sentBackState {s : State} (hwf : s.wordlist.wf = true) (st : Style) :
    decodeText st (afterBuild (sentBackState st s)) = checkBuffer (appendChecksum s.inBuf) :=
  decodeText_of_renderText (s := sentBackState st s) hwf (appendChecksum_ne_nil _) rfl

/-- Settles O55: DECODE of the encoded text checks the payload and its checksum, which is too short
exactly for the empty payload. -/
theorem roundTrip : Obligations.RoundTrip := by
  intro s style st hst hwf hcache hfit
  have hcache' : CacheOk (sentBackState st s) := hcache
  have hcheck := decodeText_sentBackState hwf st
  by_cases hin : s.inBuf = []
  · rw [hin, checkBuffer_appendChecksum_nil] at hcheck
    refine ⟨_, _, exec_encode_of_room hst hfit, exec_decode_of_error hst hcache' hcheck, ?_⟩
    rw [if_pos hin]
    exact ⟨rfl, rfl⟩
  · have hroom : fits s.cfg.bufCap s.inBuf.length = true := fits_mono (by omega) hfit
    rw [checkBuffer_appendChecksum hin] at hcheck
    refine ⟨_, _, exec_encode_of_room hst hfit, exec_decode_of_ok hst hcache' hroom hcheck, ?_⟩
    rw [if_neg hin]
    exact ⟨rfl, rfl⟩

/-! ## The texts that DECODE accepts -/

theorem exec_decode_of_status_ok {style : BitVec 2} {st : Style} {s t : State}
    (hst : styleDecode style = some st) (hcache : CacheOk s) (h : exec (.decode style) s = .next t)
    (hok : t.status = 0x00) : decodeText st (afterBuild s) = .ok t.out := by
  rw [exec_decode_eq_finish hst hcache] at h
  obtain ⟨out, hr, -, rfl⟩ | ⟨e, -, rfl⟩ := finish_next_cases h
  · exact hr
  · exact absurd hok (statusWord_errorCode_ne e)

theorem decodeText_eq_ok {st : Style} {s : State} {body : List Byte}
    (h : decodeText st s = .ok body) : ∃ buf,
      decodeTokens s.cfg.caseFoldEdges s.wordlist s.revidx (tokenLen st) (tokens st s.inBuf) =
        .ok buf ∧ checkBuffer buf = .ok body := by
  unfold decodeText at h
  split at h
  next => exact nomatch h
  next buf hbuf => exact ⟨buf, hbuf, h⟩

/-- Accepted tokens are those of their bytes, with the capitals folded. -/
theorem map_lower_of_decodeTokens_ok {wl : Wordlist} (hwf : wl.wf = true) {fold : Bool} {st : Style}
    {toks : List (List Byte)} {buf : List Byte}
    (h : decodeTokens fold wl (revTable wl) (tokenLen st) toks = .ok buf) :
    toks.map (List.map lower) = buf.map (tokenOf wl st) := by
  rw [decodeTokens_eq_ok_iff] at h
  induction toks generalizing buf with
  | nil => rw [List.map_eq_nil_iff.1 h.symm]; rfl
  | cons t ts ih =>
    cases buf with
    | nil => exact nomatch h
    | cons v u =>
      obtain ⟨ht, hts⟩ := List.cons.inj h
      rw [List.map_cons, List.map_cons, map_lower_of_decodeToken_ok hwf ht, ih hts]

/-- Settles O56: the folded tokens of an accepted text are the tokens of a buffer that has passed the
check. -/
theorem acceptedTextIsEncoding : Obligations.AcceptedTextIsEncoding := by
  intro s t style st hst hwf hcache hexec hok
  obtain ⟨buf, htokens, hcheck⟩ := decodeText_eq_ok (exec_decode_of_status_ok hst hcache hexec hok)
  obtain ⟨hne, rfl⟩ := eq_appendChecksum_of_checkBuffer_ok hcheck
  refine ⟨hne, ?_⟩
  calc s.inBuf.map lower
      = joinTokens st ((tokens st s.inBuf).map (List.map lower)) := by
        rw [← map_lower_joinTokens, joinTokens_tokens]
    _ = joinTokens st ((appendChecksum t.out).map (tokenOf s.wordlist st)) :=
        congrArg _ (map_lower_of_decodeTokens_ok hwf htokens)
    _ = renderText s.wordlist st (appendChecksum t.out) := (renderText_eq_joinTokens _ _ _).symm

/-! ## One wrong byte -/

theorem bigEndian_injective : Function.Injective bigEndian := by
  intro c d h
  simp only [bigEndian, List.cons.injEq, and_true] at h
  obtain ⟨h3, h2, h1, h0⟩ := h
  refine BitVec.eq_of_toNat_eq ?_
  rw [toNat_eq_bigEndian_value c, toNat_eq_bigEndian_value d, h3, h2, h1, h0]

theorem set_eq_append {α : Type} {u : List α} {k : Nat} (hk : k < u.length) (x : α) :
    u.set k x = u.take k ++ [x] ++ u.drop (k + 1) := by
  rw [List.set_eq_take_append_cons_drop, if_pos hk, List.append_assoc]
  rfl

/-- A changed byte changes the checksum (R147). -/
theorem crcBytes_set_ne {u : List Byte} {k : Nat} {v v' : Byte} (hk : u[k]? = some v)
    (hne : v' ≠ v) : crcBytes (u.set k v') ≠ crcBytes u := by
  obtain ⟨hlt, rfl⟩ := List.getElem?_eq_some_iff.1 hk
  intro h
  have hcrc : crc32 (u.set k v') = crc32 (u.set k u[k]) := by
    rw [List.set_getElem_self]
    exact bigEndian_injective h
  rw [set_eq_append hlt, set_eq_append hlt] at hcrc
  exact crc32_ne_of_burst (mid := [v']) (mid' := [u[k]]) rfl (by simp) (by simpa using hne) hcrc

theorem checkBuffer_set {b : List Byte} (hne : b ≠ []) {k : Nat} {v v' : Byte}
    (hk : (b ++ crcBytes b)[k]? = some v) (hv : v' ≠ v) :
    checkBuffer ((b ++ crcBytes b).set k v') = .error .checksumMismatch := by
  rcases Nat.lt_or_ge k b.length with hbody | htrailer
  · rw [List.getElem?_append_left hbody] at hk
    rw [List.set_append_left _ _ hbody]
    refine checkBuffer_append_of_ne ?_ (crcBytes_length b) (crcBytes_set_ne hk hv)
    exact List.ne_nil_of_length_pos (by rw [List.length_set]; omega)
  · rw [List.getElem?_append_right htrailer] at hk
    rw [List.set_append_right _ _ htrailer]
    refine checkBuffer_append_of_ne hne (by rw [List.length_set, crcBytes_length]) fun h => hv ?_
    obtain ⟨hlt, -⟩ := List.getElem?_eq_some_iff.1 hk
    rw [h, List.getElem?_set_self hlt] at hk
    exact Option.some.inj hk

/-- Settles O59: a changed byte of the body changes the checksum, and one of the trailer is that of no
other checksum. -/
theorem corruptedByteDetected : Obligations.CorruptedByteDetected := by
  intro s style st b k v v' hst hwf hcache hne hk hv hin
  refine exec_decode_of_error (e := .checksumMismatch) hst hcache ?_
  have hset : (b ++ crcBytes b).set k v' ≠ [] := List.ne_nil_of_length_pos (by simp)
  rw [decodeText_of_renderText hwf hset hin, checkBuffer_set hne hk hv]

end Sys2Proof.Proofs
end

section
/-! PROOF. One wrong character in a word of an encoded text (spec/44_decoder.md R194 (a) to (c)): the words
before it decode, so DECODE reports what the first token of the wrong word reports. -/

namespace Sys2Proof.Proofs

open Sys2Proof.Machine Sys2Proof.Laws

/-! ## A text with one word replaced -/

/-- The words of a buffer (R160). -/
def wordsOf (wl : Wordlist) (buf : List Byte) : List (List Byte) :=
  buf.map fun i => (wordAt wl i).chars

/-- The tokens of a text whose word k is replaced: the wrong word is cut at its separators, and the
others are not. -/
theorem splitOn_joinWords_set {wl : Wordlist} (hwf : wl.wf = true) {st : Style} {c : Byte}
    (hc : sep st = some c) {buf : List Byte} {k : Nat} (hk : k < buf.length) (w : List Byte) :
    splitOn c (joinWords c ((wordsOf wl buf).set k w)) =
      wordsOf wl (buf.take k) ++ splitOn c w ++ wordsOf wl (buf.drop (k + 1)) := by
  have hclean (u : List Byte) : (wordsOf wl u).flatMap (splitOn c) = wordsOf wl u :=
    flatMap_splitOn_of_not_mem (List.forall_mem_map.2 fun i _ => sep_not_mem_chars hwf hc i)
  have hset : (wordsOf wl buf).set k w =
      wordsOf wl (buf.take k) ++ [w] ++ wordsOf wl (buf.drop (k + 1)) := by
    rw [set_eq_append (by rwa [wordsOf, List.length_map]), wordsOf, ← List.map_take,
      ← List.map_drop]
    rfl
  rw [hset, splitOn_joinWords c (by simp), List.flatMap_append, List.flatMap_append, hclean, hclean,
    List.flatMap_singleton]

theorem lower_sep {st : Style} {c : Byte} (h : sep st = some c) : lower c = c := by
  cases st <;> cases h <;> decide

theorem tokenLen_of_sep {st : Style} {c : Byte} (h : sep st = some c) : tokenLen st = 4 := by
  cases st with
  | standard | uri => rfl
  | minimal => exact nomatch h

/-- The first token of a word that holds the separator is shorter than the word (R180). -/
theorem splitOn_of_mem {c : Byte} {w : List Byte} (h : c ∈ w) :
    ∃ t rest, splitOn c w = t :: rest ∧ t.length < w.length := by
  obtain ⟨t, u, rfl, ht⟩ := List.eq_append_cons_of_mem h
  refine ⟨t, splitOn c u, ?_, by simp⟩
  rw [splitOn_append_cons, splitOn_of_not_mem ht]
  rfl

section
variable {s : State} {style : BitVec 2} {st : Style} {c : Byte} {buf : List Byte} {k : Nat}
  (hst : styleDecode style = some st) (hc : sep st = some c) (hwf : s.wordlist.wf = true)
  (hcache : CacheOk s)
include hst hc hwf hcache

/-- DECODE reports the error of the first token of the replaced word. -/
theorem exec_decode_of_replaced_word (hk : k < buf.length) {w t : List Byte}
    {rest : List (List Byte)} {e : ErrorKind} (hsplit : splitOn c w = t :: rest)
    (ht : decodeToken s.cfg.caseFoldEdges s.wordlist (revTable s.wordlist) 4 t = .error e)
    (hin : s.inBuf = joinWords c ((wordsOf s.wordlist buf).set k w)) :
    exec (.decode style) s =
      .next { afterBuild s with out := [], status := statusWord (errorCode e) } := by
  refine exec_decode_of_error hst hcache (decodeText_of_tokens_error ?_)
  have htokens : tokens st s.inBuf = wordsOf s.wordlist (buf.take k) ++
      t :: (rest ++ wordsOf s.wordlist (buf.drop (k + 1))) := by
    rw [tokens_of_sep hc, hin, splitOn_joinWords_set hwf hc hk, hsplit, List.append_assoc,
      List.cons_append]
  have hbefore : ∀ u ∈ wordsOf s.wordlist (buf.take k), ∃ v,
      decodeToken s.cfg.caseFoldEdges s.wordlist (revTable s.wordlist) 4 u = .ok v := by
    refine List.forall_mem_map.2 fun i _ => ⟨i, ?_⟩
    rw [← tokenLen_of_sep hc, ← tokenOf_of_sep hc]
    exact decodeToken_tokenOf hwf _ st i
  rw [afterBuild_inBuf, htokens, tokenLen_of_sep hc]
  exact decodeTokens_of_first_error hbefore ht

/-- A wrong word without a separator is one token (R180). -/
theorem exec_decode_of_wrong_word (hk : k < buf.length) {w : Byteword} {e : ErrorKind}
    (hclean : c ∉ w.chars)
    (ht : decodeToken s.cfg.caseFoldEdges s.wordlist (revTable s.wordlist) 4 w.chars = .error e)
    (hin : s.inBuf = joinWords c ((wordsOf s.wordlist buf).set k w.chars)) :
    exec (.decode style) s =
      .next { afterBuild s with out := [], status := statusWord (errorCode e) } :=
  exec_decode_of_replaced_word hst hc hwf hcache hk (splitOn_of_not_mem hclean) ht hin

/-- A wrong word that holds a separator is cut, and its first token is too short (R188). -/
theorem exec_decode_of_cut_word (hk : k < buf.length) {w : Byteword} (hcut : c ∈ w.chars)
    (hin : s.inBuf = joinWords c ((wordsOf s.wordlist buf).set k w.chars)) :
    exec (.decode style) s = .next { afterBuild s with out := [], status := 0x02 } := by
  obtain ⟨t, rest, hsplit, hshort⟩ := splitOn_of_mem hcut
  have ht : t.length ≠ 4 := hshort.ne
  exact exec_decode_of_replaced_word (e := .invalidWordLength) hst hc hwf hcache hk hsplit
    (decodeToken_of_length_ne ht _ _ _) hin

/-- R194 (b): the edges of the wrong word are those of no word. -/
theorem exec_decode_of_wrong_edge (hfold : s.cfg.caseFoldEdges = false) (hk : k < buf.length)
    {w : Byteword} (hclean : c ∉ w.chars)
    (hout : isLowerLetter w.c0 = false ∨ isLowerLetter w.c3 = false)
    (hin : s.inBuf = joinWords c ((wordsOf s.wordlist buf).set k w.chars)) :
    exec (.decode style) s = .next { afterBuild s with out := [], status := 0x03 } := by
  refine exec_decode_of_wrong_word (e := .invalidWord) hst hc hwf hcache hk hclean ?_ hin
  rw [hfold]
  exact decodeToken_of_edge_outside hwf rfl hout

/-- R194 (c): the wrong word has the edges of the right one and other middle letters. -/
theorem exec_decode_of_wrong_middle (hfold : s.cfg.caseFoldEdges = false) (hk : k < buf.length)
    {w : Byteword} {i : Byte} (hclean : c ∉ w.chars) (hfirst : (wordAt s.wordlist i).c0 = w.c0)
    (hlast : (wordAt s.wordlist i).c3 = w.c3)
    (hdiff : lower w.c1 ≠ (wordAt s.wordlist i).c1 ∨ lower w.c2 ≠ (wordAt s.wordlist i).c2)
    (hin : s.inBuf = joinWords c ((wordsOf s.wordlist buf).set k w.chars)) :
    exec (.decode style) s = .next { afterBuild s with out := [], status := 0x04 } := by
  refine exec_decode_of_wrong_word (e := .invalidMiddleLetters) hst hc hwf hcache hk hclean ?_ hin
  have hedges : minimalWordAt s.wordlist i = edgesOf s.cfg.caseFoldEdges 4 w.chars := by
    rw [hfold]
    exact minimalWordAt_eq_iff.2 ⟨hfirst, hlast⟩
  exact (decodeToken_of_edges hwf rfl hedges).1 ⟨rfl, hdiff⟩

/-- A replaced word that is accepted as the byte it stands for changes nothing. -/
theorem exec_decode_of_accepted_word {b : List Byte} {i : Byte}
    (hk : (appendChecksum b)[k]? = some i) (hne : b ≠ []) (hfit : fits s.cfg.bufCap b.length = true)
    {w : Byteword} (hclean : c ∉ w.chars)
    (hw : decodeToken s.cfg.caseFoldEdges s.wordlist (revTable s.wordlist) 4 w.chars = .ok i)
    (hin : s.inBuf = joinWords c ((wordsOf s.wordlist (appendChecksum b)).set k w.chars)) :
    exec (.decode style) s = .next { afterBuild s with out := b, status := 0x00 } := by
  obtain ⟨hlt, rfl⟩ := List.getElem?_eq_some_iff.1 hk
  have hall : ∀ u ∈ (wordsOf s.wordlist (appendChecksum b)).set k w.chars, c ∉ u := fun u hu => by
    obtain hu | rfl := List.mem_or_eq_of_mem_set hu
    · obtain ⟨j, -, rfl⟩ := List.mem_map.1 hu
      exact sep_not_mem_chars hwf hc j
    · exact hclean
  have hset : (wordsOf s.wordlist (appendChecksum b)).set k w.chars ≠ [] :=
    List.ne_nil_of_length_pos (by simp [wordsOf])
  have htokens : tokens st s.inBuf = (wordsOf s.wordlist (appendChecksum b)).set k w.chars := by
    rw [tokens_of_sep hc, hin, splitOn_joinWords c hset, flatMap_splitOn_of_not_mem hall]
  have hwords : (wordsOf s.wordlist (appendChecksum b)).map
      (decodeToken s.cfg.caseFoldEdges s.wordlist (revTable s.wordlist) 4) =
        (appendChecksum b).map .ok := by
    rw [wordsOf, List.map_map]
    refine List.map_congr_left fun j _ => ?_
    rw [Function.comp_apply, ← tokenLen_of_sep hc, ← tokenOf_of_sep hc]
    exact decodeToken_tokenOf hwf _ st j
  refine exec_decode_of_ok hst hcache hfit ?_
  rw [← checkBuffer_appendChecksum hne]
  refine decodeText_of_decodeTokens ?_
  rw [htokens, tokenLen_of_sep hc, List.map_set, hwords, hw, ← List.map_set, List.set_getElem_self]

end

/-! ## An edge letter replaced by a lowercase letter, under the default WORDLIST -/

/-- A word of four lowercase letters that is not in WORDLIST. -/
theorem decodeToken_of_no_such_word {wl : Wordlist} (hwf : wl.wf = true) (fold : Bool)
    {w : Byteword} (hlower : ∀ x ∈ w.chars, isLowerLetter x = true) (hno : ∀ v, wordAt wl v ≠ w) :
    decodeToken fold wl (revTable wl) 4 w.chars = .error .invalidWord ∨
      decodeToken fold wl (revTable wl) 4 w.chars = .error .invalidMiddleLetters := by
  obtain ⟨hlen, -⟩ | ⟨-, -, hr⟩ | ⟨v, -, -, ⟨-, hr⟩ | ⟨-, hr⟩⟩ :=
    decodeToken_cases fold wl (revTable wl) 4 w.chars
  · exact absurd (chars_length w) hlen
  · exact .inl hr
  · exact .inr hr
  · have hsame : ∀ x ∈ w.chars, lower x = id x := fun x hx => lower_of_isLowerLetter (hlower x hx)
    have hchars : w.chars.map lower = (wordAt wl v).chars :=
      map_lower_of_decodeToken_ok (st := .standard) hwf hr
    rw [List.map_congr_left hsame, List.map_id] at hchars
    exact absurd (chars_injective hchars).symm (hno v)

theorem wordAt_injective_of_nodup {α : Type} {f : Byteword → α} {wl : Wordlist}
    (h : (wl.toList.map f).Nodup) : Function.Injective fun i => f (wordAt wl i) := by
  intro i j hij
  have hi : i.toNat < (wl.toList.map f).length := by simpa using i.isLt
  have hj : j.toNat < (wl.toList.map f).length := by simpa using j.isLt
  exact BitVec.eq_of_toNat_eq
    ((h.getElem_inj_iff (hi := hi) (hj := hj)).1 (by simpa [wordAt] using hij))

/-- Three letters as one number. -/
def threeCode (a b c : Byte) : Nat := (a.toNat * 256 + b.toNat) * 256 + c.toNat

/-- Numbers that rise strictly once sorted are distinct: fewer comparisons than all pairs. -/
theorem nodup_of_insertionSort {l : List Nat}
    (h : (l.insertionSort (· ≤ ·)).IsChain (· < ·)) : l.Nodup :=
  (List.perm_insertionSort (· ≤ ·) l).nodup_iff.1 (h.pairwise.imp Nat.ne_of_lt)

/-- No two default words differ in their first letter alone. -/
theorem defaultWordlist_lastThree_nodup :
    (defaultWordlist.toList.map fun w => threeCode w.c1 w.c2 w.c3).Nodup :=
  nodup_of_insertionSort (by decide +kernel)

/-- No two default words differ in their last letter alone. -/
theorem defaultWordlist_firstThree_nodup :
    (defaultWordlist.toList.map fun w => threeCode w.c0 w.c1 w.c2).Nodup :=
  nodup_of_insertionSort (by decide +kernel)

theorem wordAt_ne_setFirst {wl : Wordlist} (hwl : wl = defaultWordlist) {i x : Byte}
    (hx : x ≠ (wordAt wl i).c0) (v : Byte) : wordAt wl v ≠ { wordAt wl i with c0 := x } := by
  intro h
  subst hwl
  obtain rfl : v = i :=
    wordAt_injective_of_nodup defaultWordlist_lastThree_nodup (by simp only [h])
  exact hx (congrArg Byteword.c0 h).symm

theorem wordAt_ne_setLast {wl : Wordlist} (hwl : wl = defaultWordlist) {i x : Byte}
    (hx : x ≠ (wordAt wl i).c3) (v : Byte) : wordAt wl v ≠ { wordAt wl i with c3 := x } := by
  intro h
  subst hwl
  obtain rfl : v = i :=
    wordAt_injective_of_nodup defaultWordlist_firstThree_nodup (by simp only [h])
  exact hx (congrArg Byteword.c3 h).symm

/-- Settles O57: no other default word has the three letters that are left, so the wrong word is none, and
the look-up or the middle letters tell. -/
theorem corruptedEdgeLetter : Obligations.CorruptedEdgeLetter := by
  intro s style st c b k i x hst hc hwl hfold hcache hk hx w words bad
  have hwf : s.wordlist.wf = true := hwl ▸ defaultWordlist_wf
  obtain ⟨hlt, -⟩ := List.getElem?_eq_some_iff.1 hk
  obtain ⟨h0, h1, h2, h3⟩ := isLowerLetter_letters hwf i
  have hbad {w' : Byteword} (hlower : ∀ y ∈ w'.chars, isLowerLetter y = true)
      (hno : ∀ v, wordAt s.wordlist v ≠ w') : bad w' := fun hin => by
    have hclean : c ∉ w'.chars := fun hmem =>
      Bool.false_ne_true ((isLowerLetter_sep hc).symm.trans (hlower c hmem))
    obtain ht | ht := decodeToken_of_no_such_word hwf s.cfg.caseFoldEdges hlower hno
    · exact .inl (exec_decode_of_wrong_word hst hc hwf hcache hlt hclean ht hin)
    · exact .inr (exec_decode_of_wrong_word hst hc hwf hcache hlt hclean ht hin)
  refine ⟨fun hne => hbad ?_ (wordAt_ne_setFirst hwl hne),
    fun hne => hbad ?_ (wordAt_ne_setLast hwl hne)⟩
  · simp [Byteword.chars, w, hx, h1, h2, h3]
  · simp [Byteword.chars, w, hx, h0, h1, h2]

/-! ## A letter replaced by another code -/

theorem mem_chars_iff {c : Byte} {w : Byteword} :
    c ∈ w.chars ↔ c = w.c0 ∨ c = w.c1 ∨ c = w.c2 ∨ c = w.c3 := by
  simp [Byteword.chars]

theorem not_mem_chars_iff {c : Byte} {w : Byteword} :
    c ∉ w.chars ↔ c ≠ w.c0 ∧ c ≠ w.c1 ∧ c ≠ w.c2 ∧ c ≠ w.c3 := by
  simp [Byteword.chars]

/-- A fold that is a lowercase letter is the fold of no separator. -/
theorem sep_ne_of_lower {st : Style} {c x : Byte} (hc : sep st = some c)
    (hx : isLowerLetter (lower x) = true) : c ≠ x := by
  rintro rfl
  rw [lower_sep hc, isLowerLetter_sep hc] at hx
  exact Bool.false_ne_true hx

/-- Settles O58: at an edge the wrong word has the edges of no word, in the middle it has those of the
right word and other middle letters, and with a separator inside it is cut. -/
theorem corruptedCharacter : Obligations.CorruptedCharacter := by
  intro s style st c b k i x hst hc hwf hfold hcache hk w words gives
  obtain ⟨hlt, -⟩ := List.getElem?_eq_some_iff.1 hk
  obtain ⟨-, h1, h2, -⟩ := isLowerLetter_letters hwf i
  obtain ⟨hc0, hc1, hc2, hc3⟩ := not_mem_chars_iff.1 (sep_not_mem_chars hwf hc i)
  have hcut {w' : Byteword} (hsep : c ∈ w'.chars) : gives w' 0x02 :=
    exec_decode_of_cut_word hst hc hwf hcache hlt hsep
  refine ⟨fun hx hout => ⟨?_, ?_⟩, fun hx hne => ?_, fun hx hne => ?_, fun hx => ?_,
    fun hne hfit w' e0 e1 e2 e3 => ?_⟩
  · exact exec_decode_of_wrong_edge hst hc hwf hcache hfold hlt
      (not_mem_chars_iff.2 ⟨hx.symm, hc1, hc2, hc3⟩) (.inl hout)
  · exact exec_decode_of_wrong_edge hst hc hwf hcache hfold hlt
      (not_mem_chars_iff.2 ⟨hc0, hc1, hc2, hx.symm⟩) (.inr hout)
  · exact exec_decode_of_wrong_middle hst hc hwf hcache hfold hlt
      (not_mem_chars_iff.2 ⟨hc0, hx.symm, hc2, hc3⟩) rfl rfl (.inl hne)
  · exact exec_decode_of_wrong_middle hst hc hwf hcache hfold hlt
      (not_mem_chars_iff.2 ⟨hc0, hc1, hx.symm, hc3⟩) rfl rfl (.inr hne)
  · exact ⟨hcut (mem_chars_iff.2 (.inl hx.symm)), hcut (mem_chars_iff.2 (.inr (.inl hx.symm))),
      hcut (mem_chars_iff.2 (.inr (.inr (.inl hx.symm)))),
      hcut (mem_chars_iff.2 (.inr (.inr (.inr hx.symm))))⟩
  · have hsep : c ∉ w'.chars := not_mem_chars_iff.2
      ⟨e0 ▸ hc0, sep_ne_of_lower hc (e1 ▸ h1), sep_ne_of_lower hc (e2 ▸ h2), e3 ▸ hc3⟩
    refine exec_decode_of_accepted_word hst hc hwf hcache hk hne hfit hsep ?_
    rw [hfold]
    exact (decodeToken_chars_eq_ok_iff hwf).2 ⟨e0, e1, e2, e3⟩

end Sys2Proof.Proofs
end
